-- ==== Sys2Proof/Word.lean ====
section
/-! DEFINITION. The block's data widths (10_state.md R47) and the integer division of 00_scope.md R19. -/

namespace Sys2Proof

/-- A pixel sample, a packed bitmap byte, a payload byte, the brightness (10_state.md R47). -/
abbrev Byte := BitVec 8

/-- A header field, and the registers XPOS, YPOS, XSIZE, YSIZE, PARTS (10_state.md R47). -/
abbrev Half := BitVec 16

/-- FB_LEN, PADDR and PLEN (10_state.md R47). -/
abbrev Word := BitVec 32

/-- One entry of ACC: two's complement, ACC_BITS = 16 (00_scope.md R9). -/
abbrev AccEntry := BitVec 16

end Sys2Proof
end

