-- ==== Sys2Proof/Config.lean ====
section
/-! DEFINITION. The implementation parameters of 00_scope.md section 3 (R7 to R17), the sizes derived from them, and the
free values: what the spec leaves open, as constants without a body. -/

namespace Sys2Proof

/-- The four header fields that follow `cmd` (30_encoding.md R101). -/
structure HeaderFields where
  xpos  : Half
  ypos  : Half
  xsize : Half
  ysize : Half
  deriving DecidableEq, Repr, Inhabited

/-- HEADER_SIZE: five fields of 16 bits (00_scope.md R10). -/
def headerSize : Nat := 10

/-- `ceil(a / b)` for positive `b` (00_scope.md R19). -/
def ceilDiv (a b : Nat) : Nat := (a + b - 1) / b

/-- The default of BAND_FIELDS (42_streamer.md R193), one entry per band, band 0 first. -/
def defaultBandFields (width height bandRows : Nat) : List HeaderFields :=
  (List.range (ceilDiv height bandRows)).map fun k =>
    { xpos := BitVec.ofNat 16 (k * bandRows)
      ypos := 0
      xsize := BitVec.ofNat 16 (min bandRows (height - k * bandRows))
      ysize := BitVec.ofNat 16 width }

/-- The parameters of 00_scope.md R17 as plain data (log entries 1, 2, 3). -/
structure Params where
  width  : Nat
  height : Nat
  /-- BIAS_THRESHOLD, `T` -/
  threshold : Nat
  maxPacketSize : Nat
  cmdDraw  : Half
  cmdClear : Half
  cmdSetBrightness : Half
  hdrBigEndian : Bool
  bandRows : Nat
  /-- BAND_FIELDS: entry `k` holds the fields of band `k` -/
  bandFields : List HeaderFields
  defaultParts : Half
  /-- PART_FIELDS at the arguments (part index, number of parts, part length) the configuration fixes; at every other
  argument it is the free value `Config.partFieldsFree` -/
  partFields : List ((Nat × Nat × Nat) × HeaderFields)
  /-- PACE_DELAY, a duration in a unit the spec does not name -/
  paceDelay : Nat
  deriving DecidableEq, Repr

/-- The constraints on the parameters: 00_scope.md R7, R8, R10, R11, R13, R14, and the two properties of BAND_FIELDS
that 42_streamer.md R193 settles (ysize is WIDTH; xpos increases with the band). -/
abbrev Params.Ok (p : Params) : Prop :=
  (p.width % 8 = 0 ∧ 8 ≤ p.width ∧ p.width ≤ 65535) ∧
  (1 ≤ p.height ∧ p.height ≤ 65535) ∧
  p.threshold ≤ 254 ∧
  headerSize ≤ p.maxPacketSize ∧
  (p.cmdDraw ≠ p.cmdClear ∧ p.cmdDraw ≠ p.cmdSetBrightness ∧ p.cmdClear ≠ p.cmdSetBrightness) ∧
  1 ≤ p.bandRows ∧
  1 ≤ p.defaultParts.toNat ∧
  p.bandFields.length = ceilDiv p.height p.bandRows ∧
  (∀ f ∈ p.bandFields, f.ysize = BitVec.ofNat 16 p.width) ∧
  p.bandFields.Pairwise (fun a b => a.xpos.toNat < b.xpos.toNat)

/-- A configuration: parameters with the proof that they are consistent, so that an inconsistent one does not exist
(93_implementation_defined.md U15). -/
structure Config extends Params where
  ok : toParams.Ok
  deriving DecidableEq, Repr

/-- ROW_BYTES (00_scope.md R7). -/
def Config.rowBytes (c : Config) : Nat := c.width / 8

/-- PIXELS (00_scope.md R7). -/
def Config.pixels (c : Config) : Nat := c.width * c.height

/-- BMP_BYTES (00_scope.md R7). -/
def Config.bmpBytes (c : Config) : Nat := c.rowBytes * c.height

/-- NB, the number of bands of STREAM (42_streamer.md R191). -/
def Config.bands (c : Config) : Nat := ceilDiv c.height c.bandRows

/-! ### Free values: nothing constrains them, and nothing in Lean evaluates them. -/

/-- An FB byte the spec leaves unspecified: the draw's number, then the address (log entry 6). -/
opaque Config.fbFree : Nat → Nat → Byte

/-- An ACC entry the spec leaves unspecified: the draw's number, then the index (log entry 7). -/
opaque Config.accFree : Nat → Nat → AccEntry

/-- TXLEN outside an FRM operation, before it is bounded by MAX_PACKET_SIZE: the draw's number (log entry 8). -/
opaque Config.txLenFree : Nat → Nat

/-- PART_FIELDS where a configuration does not fix it: part index, number of parts, part length (42_streamer.md R201;
log entry 3). -/
opaque Config.partFieldsFree : Nat → Nat → Nat → HeaderFields

/-- The OPEN payload budget MAX_PACKET_SIZE - HEADER_SIZE of the configuration at `State.reset` (00_scope.md R10). -/
opaque Config.budgetFree : Nat

/-- The OPEN code CMD_DRAW of the configuration at `State.reset` (00_scope.md R11). -/
opaque Config.cmdDrawFree : Half

/-- Where CMD_CLEAR lies above CMD_DRAW, less one: any of the 65535 other codes (00_scope.md R11). -/
opaque Config.cmdClearFree : Fin 65535

/-- Which of the 65534 remaining codes CMD_SETBRIGHTNESS is (00_scope.md R11). -/
opaque Config.cmdSetBrightnessFree : Fin 65534

/-- The OPEN DEFAULT_PARTS of the configuration at `State.reset`, less one (00_scope.md R14). -/
opaque Config.defaultPartsFree : Fin 65535

/-- The OPEN PACE_DELAY of the configuration at `State.reset` (00_scope.md R15). -/
opaque Config.paceDelayFree : Nat

/-- The distance of CMD_CLEAR above CMD_DRAW. -/
def Config.clearOffset : Nat := Config.cmdClearFree.val + 1

/-- The distance of CMD_SETBRIGHTNESS above CMD_DRAW: neither 0 nor `clearOffset`. -/
def Config.setBrightnessOffset : Nat :=
  if Config.cmdSetBrightnessFree.val + 1 < Config.clearOffset then Config.cmdSetBrightnessFree.val + 1
  else Config.cmdSetBrightnessFree.val + 2

/-- The parameters at `State.reset`: the reference deployment's frame (00_scope.md R16) and the spec's defaults (R8, R12,
R13), every OPEN parameter a free value (log entry 1). -/
def Params.deployed : Params where
  width := 448
  height := 240
  threshold := 127
  maxPacketSize := Config.budgetFree + 10
  cmdDraw := Config.cmdDrawFree
  cmdClear := Config.cmdDrawFree + BitVec.ofNat 16 Config.clearOffset
  cmdSetBrightness := Config.cmdDrawFree + BitVec.ofNat 16 Config.setBrightnessOffset
  hdrBigEndian := true
  bandRows := 4
  bandFields := defaultBandFields 448 240 4
  defaultParts := BitVec.ofNatLT (Config.defaultPartsFree.val + 1) (by omega)
  partFields := []
  paceDelay := Config.paceDelayFree

/-- The default of BAND_FIELDS has the two settled properties whatever the sizes (42_streamer.md R193). -/
theorem defaultBandFields_settled (width height bandRows : Nat) (hh : height ≤ 65535) (hb : 1 ≤ bandRows) :
    (defaultBandFields width height bandRows).length = ceilDiv height bandRows ∧
    (∀ f ∈ defaultBandFields width height bandRows, f.ysize = BitVec.ofNat 16 width) ∧
    (defaultBandFields width height bandRows).Pairwise (fun a b => a.xpos.toNat < b.xpos.toNat) := by
  refine ⟨by simp [defaultBandFields], by simp [defaultBandFields], ?_⟩
  unfold defaultBandFields
  rw [List.pairwise_map]
  have hlt : ∀ k ∈ List.range (ceilDiv height bandRows), k * bandRows < 65536 := by
    intro k hk
    rw [List.mem_range, ceilDiv, Nat.lt_iff_add_one_le, Nat.le_div_iff_mul_le hb] at hk
    rw [Nat.add_mul] at hk
    omega
  refine List.Pairwise.imp_of_mem ?_ (List.pairwise_lt_range (n := ceilDiv height bandRows))
  intro a b ha hbm hab
  simp only [BitVec.toNat_ofNat]
  rw [Nat.mod_eq_of_lt (hlt a ha), Nat.mod_eq_of_lt (hlt b hbm)]
  exact Nat.mul_lt_mul_of_pos_right hab hb

/-- Two codes at different distances above a third are different. -/
theorem offset_ne (d : Half) (a b : Nat) (ha : a < 65536) (hb : b < 65536) (h : a ≠ b) :
    d + BitVec.ofNat 16 a ≠ d + BitVec.ofNat 16 b := by
  intro e
  have := congrArg BitVec.toNat e
  simp only [BitVec.toNat_add, BitVec.toNat_ofNat] at this
  omega

/-- The parameters at `State.reset` are consistent whatever the OPEN ones are. -/
theorem Params.deployed_ok : Params.deployed.Ok := by
  have hu := Config.cmdClearFree.isLt
  have hv := Config.cmdSetBrightnessFree.isLt
  have hb := defaultBandFields_settled 448 240 4 (by decide) (by decide)
  have hc : 1 ≤ Config.clearOffset ∧ Config.clearOffset < 65536 := by unfold Config.clearOffset; omega
  have hs : 1 ≤ Config.setBrightnessOffset ∧ Config.setBrightnessOffset < 65536 ∧
      Config.setBrightnessOffset ≠ Config.clearOffset := by
    unfold Config.setBrightnessOffset; split <;> omega
  have z : Config.cmdDrawFree = Config.cmdDrawFree + BitVec.ofNat 16 0 := by simp
  refine ⟨by decide, by decide, by decide, ?_, ⟨?_, ?_, ?_⟩, by decide, ?_, hb.1, hb.2.1, hb.2.2⟩
  · show 10 ≤ Config.budgetFree + 10
    omega
  · show Config.cmdDrawFree ≠ Config.cmdDrawFree + _
    exact fun e => offset_ne Config.cmdDrawFree 0 _ (by decide) hc.2 (by omega) (z.symm.trans e)
  · show Config.cmdDrawFree ≠ Config.cmdDrawFree + _
    exact fun e => offset_ne Config.cmdDrawFree 0 _ (by decide) hs.2.1 (by omega) (z.symm.trans e)
  · exact offset_ne _ _ _ hc.2 hs.2.1 (by omega)
  · show 1 ≤ (BitVec.ofNatLT (Config.defaultPartsFree.val + 1) _).toNat
    rw [BitVec.toNat_ofNatLT]; omega

/-- The configuration at `State.reset` (log entry 1). -/
def Config.deployed : Config := { toParams := Params.deployed, ok := Params.deployed_ok }

end Sys2Proof
end

