-- ==== Sys2Proof/Syntax.lean ====
section
/-! DEFINITION. One constructor per row of spec/opcode_table.json: the three packet rows of group PKT and the eight rows of
group OP. -/

namespace Sys2Proof

/-- The instructions of the table. A packet row carries the header fields and the payload that its pattern leaves free
(30_encoding.md R117); an operation row carries nothing, its operands being registers sampled at issue (R112). -/
inductive Instr where
  /-- PKT row DRAW: cmd = CMD_DRAW (41_framer.md R168) -/
  | pktDraw (xpos ypos xsize ysize : Half) (payload : List Byte)
  /-- PKT row CLEAR: cmd = CMD_CLEAR, fields zero, no payload (41_framer.md R166) -/
  | pktClear
  /-- PKT row SETBRIGHTNESS: cmd = CMD_SETBRIGHTNESS, fields zero, one payload byte (41_framer.md R167) -/
  | pktSetBrightness (level : Byte)
  /-- OPC 0, reserved (30_encoding.md R113) -/
  | reserved0
  /-- OPC 1 (40_dither.md R130) -/
  | dither
  /-- OPC 2 (41_framer.md R166) -/
  | clear
  /-- OPC 3 (41_framer.md R167) -/
  | bright
  /-- OPC 4 (41_framer.md R168) -/
  | draw
  /-- OPC 5 (42_streamer.md R190) -/
  | stream
  /-- OPC 6 (42_streamer.md R199) -/
  | streambuf
  /-- OPC 7, reserved (30_encoding.md R113) -/
  | reserved7
  deriving DecidableEq, Repr

/-- The two encodings of the block (30_encoding.md): the number in the OP register, and the packet on the wire. -/
inductive Space where
  | opReg
  | wire
  deriving DecidableEq, Repr

/-- Which encoding an instruction has. -/
def Instr.space : Instr → Space
  | .pktDraw _ _ _ _ _ => .wire
  | .pktClear => .wire
  | .pktSetBrightness _ => .wire
  | .reserved0 => .opReg
  | .dither => .opReg
  | .clear => .opReg
  | .bright => .opReg
  | .draw => .opReg
  | .stream => .opReg
  | .streambuf => .opReg
  | .reserved7 => .opReg

/-- The payload of an instruction's packet; an operation number has none. -/
def Instr.payload : Instr → List Byte
  | .pktDraw _ _ _ _ payload => payload
  | .pktClear => []
  | .pktSetBrightness level => [level]
  | .reserved0 => []
  | .dither => []
  | .clear => []
  | .bright => []
  | .draw => []
  | .stream => []
  | .streambuf => []
  | .reserved7 => []

end Sys2Proof
end

