-- ==== Sys2Proof/WellFormed.lean ====
section
/-! DEFINITION. The one check an instruction must pass: its packet is one the block may produce (30_encoding.md R109). -/

namespace Sys2Proof

/-- A packet of payload length `n` fits when `HEADER_SIZE + n <= MAX_PACKET_SIZE` (30_encoding.md R109). An operation number
has no field that could be ill-formed. -/
def Instr.wf (c : Config) (i : Instr) : Bool :=
  decide (headerSize + i.payload.length ≤ c.maxPacketSize)

end Sys2Proof
end

