-- ==== Sys2Proof/Decode.lean ====
section
/-! DEFINITION. The decoder, total on any bytes, then the encoder, then the host's view of the decoder. -/

namespace Sys2Proof

/-! ### The byte-order encoder and its inverse (30_encoding.md R103) -/

/-- `enc16`: the two bytes of a header field in the protocol's order (20_memory.md R75). -/
def enc16 (bigEndian : Bool) (v : Half) : List Byte :=
  if bigEndian then [v.extractLsb' 8 8, v.extractLsb' 0 8] else [v.extractLsb' 0 8, v.extractLsb' 8 8]

/-- The header field whose two bytes are `b0`, sent first, and `b1`. -/
def dec16 (bigEndian : Bool) (b0 b1 : Byte) : Half :=
  if bigEndian then b0.setWidth 16 <<< 8 ||| b1.setWidth 16 else b1.setWidth 16 <<< 8 ||| b0.setWidth 16

/-! ### Decoding -/

/-- Why bytes are no instruction of the block. -/
inductive DecodeError where
  /-- no byte at all in OP -/
  | empty
  /-- a packet shorter than its header (30_encoding.md R110) -/
  | shortPacket
  /-- a packet longer than MAX_PACKET_SIZE (30_encoding.md R109) -/
  | longPacket
  /-- the cmd field is none of the three codes (30_encoding.md R110) -/
  | unknownCommand
  /-- a Clear longer than 10 bytes (30_encoding.md R110) -/
  | clearLength
  /-- a SetBrightness that is not 11 bytes (30_encoding.md R110) -/
  | setBrightnessLength
  /-- a Clear or SetBrightness with a position or size field that is not zero (30_encoding.md R108, R117; log entry 15) -/
  | unusedFieldNotZero
  deriving DecidableEq, Repr

/-- The operation selected by a value written to OP: OPC = OP[2:0], the bits above ignored (10_state.md R38,
30_encoding.md R112). -/
def decodeOp (value : Nat) : Instr :=
  match value % 8 with
  | 0 => .reserved0
  | 1 => .dither
  | 2 => .clear
  | 3 => .bright
  | 4 => .draw
  | 5 => .stream
  | 6 => .streambuf
  | _ => .reserved7

/-- A packet parsed back: the tagged operation of 30_encoding.md R110, with its header fields and its payload. -/
inductive Packet where
  | draw (fields : HeaderFields) (payload : List Byte)
  | clear (fields : HeaderFields)
  | setBrightness (fields : HeaderFields) (level : Byte)
  deriving DecidableEq, Repr

/-- A packet whose header fields are already read, parsed as 30_encoding.md R110 says: one of the three codes, a Clear of
exactly 10 bytes, a SetBrightness of exactly 11. -/
def parseCommand (c : Config) (cmd : Half) (f : HeaderFields) (payload : List Byte) : Except DecodeError Packet :=
  if cmd = c.cmdDraw then .ok (.draw f payload)
  else if cmd = c.cmdClear then
    match payload with
    | [] => .ok (.clear f)
    | _ :: _ => .error .clearLength
  else if cmd = c.cmdSetBrightness then
    match payload with
    | [level] => .ok (.setBrightness f level)
    | [] => .error .setBrightnessLength
    | _ :: _ :: _ => .error .setBrightnessLength
  else .error .unknownCommand

/-- The parser of 30_encoding.md R110: ten header bytes (R101), then the payload. -/
def parsePacket (c : Config) : List Byte → Except DecodeError Packet
  | c0 :: c1 :: x0 :: x1 :: y0 :: y1 :: w0 :: w1 :: h0 :: h1 :: payload =>
    parseCommand c (dec16 c.hdrBigEndian c0 c1)
      { xpos := dec16 c.hdrBigEndian x0 x1
        ypos := dec16 c.hdrBigEndian y0 y1
        xsize := dec16 c.hdrBigEndian w0 w1
        ysize := dec16 c.hdrBigEndian h0 h1 } payload
  | _ => .error .shortPacket

/-- The row of the opcode table that a parsed packet belongs to: R117 gives CLEAR and SETBRIGHTNESS 64 fixed zero bits, and
no row has a packet longer than MAX_PACKET_SIZE (30_encoding.md R107, R108, R109, R117; log entry 15). -/
def Packet.row (c : Config) : Packet → Except DecodeError Instr
  | .draw f payload =>
    if c.maxPacketSize < headerSize + payload.length then .error .longPacket
    else .ok (.pktDraw f.xpos f.ypos f.xsize f.ysize payload)
  | .clear f => if f = ⟨0, 0, 0, 0⟩ then .ok .pktClear else .error .unusedFieldNotZero
  | .setBrightness f level =>
    if c.maxPacketSize < headerSize + 1 then .error .longPacket
    else if f = ⟨0, 0, 0, 0⟩ then .ok (.pktSetBrightness level)
    else .error .unusedFieldNotZero

/-- A packet decoded: parsed, then matched with its row. -/
def decodePacket (c : Config) (bytes : List Byte) : Except DecodeError Instr :=
  match parsePacket c bytes with
  | .error e => .error e
  | .ok p => p.row c

/-- The decoder, total on any bytes of either space. OP holds one byte, the value HOST wrote, least significant byte
first if there are more: OPC lies in the first. -/
def decode (c : Config) (space : Space) (bytes : List Byte) : Except DecodeError Instr :=
  match space with
  | .wire => decodePacket c bytes
  | .opReg =>
    match bytes with
    | [] => .error .empty
    | b :: _ => .ok (decodeOp b.toNat)

/-! ### Encoding -/

/-- The number of an operation (30_encoding.md R112); a packet row has none. -/
def Instr.opc : Instr → Option Nat
  | .pktDraw _ _ _ _ _ => none
  | .pktClear => none
  | .pktSetBrightness _ => none
  | .reserved0 => some 0
  | .dither => some 1
  | .clear => some 2
  | .bright => some 3
  | .draw => some 4
  | .stream => some 5
  | .streambuf => some 6
  | .reserved7 => some 7

/-- The header of a command: five fields, in this order, no padding (30_encoding.md R101, R103). -/
def encodeHeader (bigEndian : Bool) (cmd : Half) (f : HeaderFields) : List Byte :=
  enc16 bigEndian cmd ++ enc16 bigEndian f.xpos ++ enc16 bigEndian f.ypos ++ enc16 bigEndian f.xsize ++
    enc16 bigEndian f.ysize

/-- The words of an instruction: the packet's bytes, or the byte HOST writes to OP. -/
def encode (c : Config) : Instr → List Byte
  | .pktDraw x y w h payload => encodeHeader c.hdrBigEndian c.cmdDraw ⟨x, y, w, h⟩ ++ payload
  | .pktClear => encodeHeader c.hdrBigEndian c.cmdClear ⟨0, 0, 0, 0⟩
  | .pktSetBrightness level => encodeHeader c.hdrBigEndian c.cmdSetBrightness ⟨0, 0, 0, 0⟩ ++ [level]
  | .reserved0 => [0]
  | .dither => [1]
  | .clear => [2]
  | .bright => [3]
  | .draw => [4]
  | .stream => [5]
  | .streambuf => [6]
  | .reserved7 => [7]

/-! ### The host's view -/

/-- The ten header bytes of the 80-bit value `H = cmd ‖ xpos ‖ ypos ‖ xsize ‖ ysize` (30_encoding.md R104): byte `i` is
`H[79-8i : 72-8i]`, and the two bytes of each field are exchanged where HDR_BIG_ENDIAN is false. -/
def headerBytes (bigEndian : Bool) (h : Nat) : List Byte :=
  let field (lo : Nat) : Half := BitVec.ofNat 16 (h >>> lo)
  encodeHeader bigEndian (field 64) ⟨field 48, field 32, field 16, field 0⟩

/-- The bytes of the packet whose header is `h`: the payload bytes above the header are zero, one of them where the
command needs it (log entry 23). -/
def tablePacket (c : Config) (h : Nat) : List Byte :=
  if (BitVec.ofNat 16 (h >>> 64) : Half) = c.cmdSetBrightness then headerBytes c.hdrBigEndian h ++ [0]
  else headerBytes c.hdrBigEndian h

/-- The instruction the decoder reads from a row's bits, numbered as spec/opcode_table.json numbers them: 80 bits are a
packet header, fewer are the value written to OP. -/
def decodeTableWord (nbits w : Nat) : Option Instr :=
  if nbits = 80 then (decode Config.deployed .wire (tablePacket Config.deployed w)).toOption
  else (decode Config.deployed .opReg [BitVec.ofNat 8 w]).toOption

end Sys2Proof
end

