-- ==== Sys2Proof/Machine/State.lean ====
section
/-! DEFINITION. Everything the spec gives the machine (10_state.md R30), as plain data, with the model's inputs beside it,
and the state after reset. -/

namespace Sys2Proof.Machine

/-- Why the machine stops with a fault. -/
inductive Fault where
  /-- Raised by the FB port (`State.hostFbWrite`, `State.hostFbRead`): HOST names an FB address outside 0..PIXELS-1, which
  does not exist (20_memory.md R70, R81). Safe: the machine stops where the hardware goes on (log entry 11). -/
  | fbAddress
  deriving DecidableEq, Repr

/-- Why the machine gives an access no step. -/
inductive Refusal where
  /-- Raised by no meaning: an instruction `exec` does not model yet. Safe. -/
  | notModelled (mnemonic : String)
  /-- Raised by DRAW and STREAMBUF: the slice leaves FB and the size check passed (41_framer.md R170). Safe (log entry 12). -/
  | sliceOutsideFb
  /-- Raised by STREAMBUF: PARTS is 0 or does not divide PLEN (42_streamer.md R200). Safe (log entry 13). -/
  | unequalParts
  /-- Raised by the FB port: HOST reads or writes FB while STATUS.BUSY is 1 (20_memory.md R85). Safe (log entry 10). -/
  | fbWhileBusy
  /-- Raised by HOST's port (`State.hostOp`), by no meaning: HOST writes OP while STATUS.BUSY is 1 (60_exceptions.md R237,
  70_reset_and_hazards.md R266). Safe (log entry 9). -/
  | opWhileBusy
  /-- Raised by HOST's port (`State.hostOp`), by no meaning: HOST writes a reserved number to OP (60_exceptions.md R237,
  30_encoding.md R113). Safe (log entry 9). -/
  | reservedOperation
  deriving DecidableEq, Repr

/-- PHASE of the DTH sequencer (10_state.md R42). -/
inductive Phase where
  | idle
  | load
  | scan
  deriving DecidableEq, Repr

/-- Where FRM stands in the loop body of 42_streamer.md R194 and R202: it assembles a packet in TXBUF, hands it to SINK,
waits for the answer, and waits out the pacing delay (log entry 17). -/
inductive Stage where
  | idle
  | build
  | handOver
  | await
  | pace
  deriving DecidableEq, Repr

/-- The operation in progress, with the operand registers as sampled at issue (10_state.md R38). -/
inductive Job where
  | dither
  | clear
  | bright (level : Byte)
  | draw (fields : HeaderFields) (paddr plen : Word)
  | stream
  | streambuf (paddr plen : Word) (parts : Half)
  deriving DecidableEq, Repr

/-- SINK's answer to a datagram (00_scope.md R22). -/
inductive Answer where
  | ok
  | err
  deriving DecidableEq, Repr

/-- One entry of OUT: a datagram, and SINK's answer once it has given one (10_state.md R44; log entry 18). -/
structure Sent where
  bytes  : List Byte
  answer : Option Answer
  deriving DecidableEq, Repr

/-- The errors that `raise` ends an operation with (00_scope.md R21, 60_exceptions.md R220). SendError ends none: it is
SINK's answer `err` (60_exceptions.md R223). -/
inductive Error where
  | invalidDimensions
  | packetTooLarge
  deriving DecidableEq, Repr

/-- A command: the arguments of `build` (41_framer.md R160). -/
structure Command where
  cmd     : Half
  fields  : HeaderFields
  payload : List Byte
  deriving DecidableEq, Repr

/-- One access of HOST (30_encoding.md R115): a register write, a register read, an FB byte write, an FB byte read, or the
reset input. -/
inductive HostMove where
  | write (index value : Nat)
  | read (index : Nat)
  | fbWrite (addr : Nat) (value : Byte)
  | fbRead (addr : Nat)
  | reset
  deriving DecidableEq, Repr

/-- An access, and how many block steps pass before HOST's next one lands: `none` where the block runs as far as it can,
to the end of the operation or until it waits for SINK, as when HOST waits for BUSY to fall (70_reset_and_hazards.md R266;
log entry 5). -/
structure HostEvent where
  move   : HostMove
  window : Option Nat
  deriving DecidableEq, Repr

/-- The state of the block (10_state.md R30), and the inputs of the model. -/
structure State where
  /-- The configuration: constant, no step changes it (00_scope.md R17; log entry 1). -/
  cfg : Config
  /-- FB: the bytes that have a specified value (10_state.md R31; log entry 6). -/
  fb : List Host.Cell
  /-- Which draw the unspecified FB bytes come from. -/
  fbEpoch : Nat
  /-- ACC: the entries that have a specified value (10_state.md R33; log entry 7). -/
  acc : List (Nat × AccEntry)
  /-- Which draw the unspecified ACC entries come from. -/
  accEpoch : Nat
  fbLen : Word
  xpos : Half
  ypos : Half
  xsize : Half
  ysize : Half
  paddr : Word
  plen : Word
  bright : Byte
  parts : Half
  /-- STATUS.BUSY -/
  busy : Bool
  /-- STATUS.HALT -/
  halt : Bool
  /-- ERR.DIM -/
  errDim : Bool
  /-- ERR.PKT -/
  errPkt : Bool
  /-- ERR.SEND -/
  errSend : Bool
  /-- PHASE, ROW and COL of the DTH sequencer (10_state.md R42). -/
  phase : Phase
  row : Nat
  col : Nat
  /-- The stage and the counter K of the FRM sequencer (10_state.md R43). -/
  stage : Stage
  k : Nat
  /-- The operation in progress with its sampled operands (10_state.md R38). -/
  job : Option Job
  /-- TXBUF: the bytes of it, from offset 0, that have a specified value (10_state.md R43; log entry 8). -/
  txbuf : List Byte
  /-- TXLEN (10_state.md R43). -/
  txlen : Nat
  /-- Which draw an unspecified TXLEN comes from. -/
  txEpoch : Nat
  /-- The pacing timer: 0 when idle, PACE_DELAY while it runs (10_state.md R45; log entry 16). -/
  timer : Nat
  /-- OUT, oldest datagram first (10_state.md R44). -/
  out : List Sent
  /-- What HOST's last read returned (log entry 19). -/
  rdata : Nat
  /-- Input: SINK's coming answers; none left, SINK does not answer (log entry 4). -/
  sink : List Answer
  /-- Input: HOST's coming accesses (log entry 5). -/
  host : List HostEvent
  /-- Input: how many block steps pass before HOST's next access lands, `none` for as many as it can make (log entry
  5). -/
  window : Option Nat
  /-- Input: HOST keeps its duty at OP, and the writes to OP that 60_exceptions.md R237 calls refusals have no step; where
  false, such a write lands and the hardware ignores it (10_state.md R38; log entry 9). -/
  dutiful : Bool
  deriving DecidableEq, Repr

/-- TXLEN where it is unspecified: any fill length 0..MAX_PACKET_SIZE (10_state.md R43; log entry 8). -/
def txLenUnspecified (c : Config) (epoch : Nat) : Nat := Config.txLenFree epoch % (c.maxPacketSize + 1)

/-- The machine right after reset (10_state.md R49). The free draws, the inputs and `rdata` are the model's (log entries 1,
4, 5, 6, 7, 8, 9, 19). -/
def State.reset : State where
  cfg := Config.deployed
  fb := []
  fbEpoch := 0
  acc := []
  accEpoch := 0
  fbLen := 0
  xpos := 0
  ypos := 0
  xsize := 0
  ysize := 0
  paddr := 0
  plen := 0
  bright := 0
  parts := Config.deployed.defaultParts
  busy := false
  halt := false
  errDim := false
  errPkt := false
  errSend := false
  phase := .idle
  row := 0
  col := 0
  stage := .idle
  k := 0
  job := none
  txbuf := []
  txlen := txLenUnspecified Config.deployed 0
  txEpoch := 0
  timer := 0
  out := []
  rdata := 0
  sink := []
  host := []
  window := none
  dutiful := true

end Sys2Proof.Machine
end

