-- ==== Sys2Proof/Machine/Ops.lean ====
section
/-! DEFINITION. The named operations over the memories, the framer primitive, the raising of an error, the end of an
operation and the reset input: shared by every meaning. -/

namespace Sys2Proof.Machine

/-! ### Memories: (address, value) pairs in rising order, an unlisted address having no specified value -/

/-- The specified value at an address, if there is one. -/
def Memory.find {α : Type} : List (Nat × α) → Nat → Option α
  | [], _ => none
  | (k, v) :: m, a => if k = a then some v else Memory.find m a

/-- Store a value, keeping the addresses rising. -/
def Memory.put {α : Type} : List (Nat × α) → Nat → α → List (Nat × α)
  | [], a, v => [(a, v)]
  | (k, w) :: m, a, v =>
    if a < k then (a, v) :: (k, w) :: m
    else if a = k then (a, v) :: m
    else (k, w) :: Memory.put m a v

/-- Forget every address from `n` on: its content becomes unspecified. -/
def Memory.below {α : Type} (m : List (Nat × α)) (n : Nat) : List (Nat × α) := m.filter fun e => decide (e.1 < n)

/-- Keep every address from `n` on. -/
def Memory.above {α : Type} (m : List (Nat × α)) (n : Nat) : List (Nat × α) := m.filter fun e => decide (n ≤ e.1)

/-- The list that gives each address below `n` the value `f` says. -/
def Memory.fill {α : Type} (n : Nat) (f : Nat → α) : List (Nat × α) := (List.range n).map fun a => (a, f a)

/-- The canonical form: addresses strictly rising. No entry can equal what an unlisted address reads as, since an unlisted
address has no specified value. -/
abbrev Memory.wf {α : Type} (m : List (Nat × α)) : Prop := m.Pairwise fun x y => x.1 < y.1

/-! ### FB and ACC (00_scope.md R20) -/

/-- `FB[a]`: the specified byte, or the free value of the current draw (log entry 6). -/
def State.readFb (s : State) (a : Nat) : Byte := (Memory.find s.fb a).getD (Config.fbFree s.fbEpoch a)

/-- `FB[a] <- v`. -/
def State.writeFb (s : State) (a : Nat) (v : Byte) : State := { s with fb := Memory.put s.fb a v }

/-- `MemRead(FB, a, n)`: the bytes in address order (20_memory.md R76, 41_framer.md R169). -/
def State.memRead (s : State) (a n : Nat) : List Byte := (List.range n).map fun j => s.readFb (a + j)

/-- `ACC[i]` as its 16 bits: the specified entry, or the free value of the current draw (log entry 7). -/
def State.readAcc (s : State) (i : Nat) : AccEntry := (Memory.find s.acc i).getD (Config.accFree s.accEpoch i)

/-- `ACC[i] <- v`, `v` in 16-bit two's complement (00_scope.md R9). -/
def State.writeAcc (s : State) (i : Nat) (v : Int) : State := { s with acc := Memory.put s.acc i (BitVec.ofInt 16 v) }

/-- A slice of FB: `PADDR + PLEN <= PIXELS`, without wrap-around (20_memory.md R82). -/
def State.insideFb (s : State) (addr len : Nat) : Bool := decide (addr + len ≤ s.cfg.pixels)

/-! ### The framer primitive -/

/-- The bounds check of `build`: `HEADER_SIZE + n <= MAX_PACKET_SIZE` on unbounded integers (41_framer.md R161). -/
def Config.fits (c : Config) (n : Nat) : Bool := decide (headerSize + n ≤ c.maxPacketSize)

/-- `build`: the packet, or none for PacketTooLargeError (41_framer.md R160, R163). -/
def build (c : Config) (m : Command) : Option (List Byte) :=
  if Config.fits c m.payload.length then some (encodeHeader c.hdrBigEndian m.cmd m.fields ++ m.payload) else none

/-! ### Ending an operation, raising an error, reset -/

/-- An FRM operation ends: BUSY falls, TXBUF and TXLEN are unspecified from here on (41_framer.md R173). -/
def State.endFramer (s : State) : State :=
  { s with
    busy := false
    stage := .idle
    job := none
    txbuf := []
    txEpoch := s.txEpoch + 1
    txlen := txLenUnspecified s.cfg (s.txEpoch + 1) }

/-- DITHER ends: PHASE idle, BUSY falls, and the FB tail and all of ACC are unspecified from here on (40_dither.md R141). -/
def State.endDither (s : State) : State :=
  { s with
    busy := false
    phase := .idle
    job := none
    fb := Memory.below s.fb s.cfg.bmpBytes
    fbEpoch := s.fbEpoch + 1
    acc := []
    accEpoch := s.accEpoch + 1 }

/-- `raise` (00_scope.md R21): the entry of each error, as 60_exceptions.md R221, R222 and R228 give it. There is no
handler and nothing is saved; the return is HOST's clearing of the flag, or the reset input (R231). -/
def State.raise (s : State) : Error → State
  | .invalidDimensions => { s with errDim := true, busy := false }
  | .packetTooLarge => { s.endFramer with errPkt := true, halt := true }

/-- The reset input (70_reset_and_hazards.md R260 to R263): every register and sequencer at its reset value, FB, ACC,
TXBUF and TXLEN unspecified, an operation in progress ended; the configuration, OUT and the inputs are kept. -/
def State.resetInput (s : State) : State :=
  { s with
    fb := []
    fbEpoch := s.fbEpoch + 1
    acc := []
    accEpoch := s.accEpoch + 1
    fbLen := 0
    xpos := 0
    ypos := 0
    xsize := 0
    ysize := 0
    paddr := 0
    plen := 0
    bright := 0
    parts := s.cfg.defaultParts
    busy := false
    halt := false
    errDim := false
    errPkt := false
    errSend := false
    phase := .idle
    row := 0
    col := 0
    stage := .idle
    k := 0
    job := none
    txbuf := []
    txEpoch := s.txEpoch + 1
    txlen := txLenUnspecified s.cfg (s.txEpoch + 1)
    timer := 0 }

end Sys2Proof.Machine
end

