-- ==== Sys2Proof/Machine/Flags.lean ====
section
/-! DEFINITION. STATUS and ERR: their words, write-one-to-clear, and SINK's answer. The block has no other flag and no
arithmetic result sets one (10_state.md R51). -/

namespace Sys2Proof.Machine

/-- STATUS as HOST reads it: BUSY in bit 0, HALT in bit 1, all other bits 0 (10_state.md R39). -/
def State.statusWord (s : State) : Nat := s.busy.toNat + 2 * s.halt.toNat

/-- ERR as HOST reads it: DIM, PKT, SEND in bits 0, 1, 2, all other bits 0 (10_state.md R40). -/
def State.errWord (s : State) : Nat := s.errDim.toNat + 2 * s.errPkt.toNat + 4 * s.errSend.toNat

/-- A write to ERR: a 1 clears DIM (bit 0) or SEND (bit 2); PKT is cleared by reset only (10_state.md R40). -/
def State.clearErr (s : State) (value : Nat) : State :=
  { s with
    errDim := s.errDim && !value.testBit 0
    errSend := s.errSend && !value.testBit 2 }

/-- SINK's answer: `err` sets the sticky ERR.SEND and nothing else, `ok` changes no flag (41_framer.md R165). -/
def State.noteAnswer (s : State) : Answer → State
  | .ok => s
  | .err => { s with errSend := true }

/-- OUT with SINK's answer written beside the datagram handed over last (10_state.md R44). -/
def answerLast (a : Answer) : List Sent → List Sent
  | [] => []
  | [e] => [{ e with answer := some a }]
  | e :: e' :: es => e :: answerLast a (e' :: es)

end Sys2Proof.Machine
end

