-- ==== Sys2Proof/Machine/Operands.lean ====
section
/-! DEFINITION. The register file, the operands an operation samples at issue, and the command each packet of an operation
carries. -/

namespace Sys2Proof.Machine

/-! ### The register file (10_state.md R41) -/

/-- A register read by index: OP reads 0, so does every index that does not exist, and every unused bit. -/
def State.readReg (s : State) (index : Nat) : Nat :=
  match index with
  | 0 => 0
  | 1 => s.statusWord
  | 2 => s.errWord
  | 3 => s.fbLen.toNat
  | 4 => s.xpos.toNat
  | 5 => s.ypos.toNat
  | 6 => s.xsize.toNat
  | 7 => s.ysize.toNat
  | 8 => s.paddr.toNat
  | 9 => s.plen.toNat
  | 10 => s.bright.toNat
  | 11 => s.parts.toNat
  | _ => 0

/-- A register write by index, other than to OP: the value modulo `2^N` (00_scope.md R20), STATUS and the indices that do
not exist unchanged, ERR write-one-to-clear. A write while BUSY is stored (10_state.md R41). -/
def State.writeReg (s : State) (index value : Nat) : State :=
  match index with
  | 2 => s.clearErr value
  | 3 => { s with fbLen := BitVec.ofNat 32 value }
  | 4 => { s with xpos := BitVec.ofNat 16 value }
  | 5 => { s with ypos := BitVec.ofNat 16 value }
  | 6 => { s with xsize := BitVec.ofNat 16 value }
  | 7 => { s with ysize := BitVec.ofNat 16 value }
  | 8 => { s with paddr := BitVec.ofNat 32 value }
  | 9 => { s with plen := BitVec.ofNat 32 value }
  | 10 => { s with bright := BitVec.ofNat 8 value }
  | 11 => { s with parts := BitVec.ofNat 16 value }
  | _ => s

/-! ### Sampling at issue (10_state.md R38; 30_encoding.md R112) -/

/-- BRIGHT's operand (41_framer.md R167). -/
def State.sampleBright (s : State) : Job := .bright s.bright

/-- DRAW's operands (41_framer.md R168). -/
def State.sampleDraw (s : State) : Job := .draw ⟨s.xpos, s.ypos, s.xsize, s.ysize⟩ s.paddr s.plen

/-- STREAMBUF's operands (42_streamer.md R199). -/
def State.sampleStreambuf (s : State) : Job := .streambuf s.paddr s.plen s.parts

/-! ### The packets of an operation -/

/-- How many packets an operation sends: NB for STREAM (42_streamer.md R191), PARTS for STREAMBUF (R202), one for the
single-packet operations (41_framer.md R172), none for DITHER (40_dither.md R130). -/
def Job.packets (c : Config) : Job → Nat
  | .dither => 0
  | .clear => 1
  | .bright _ => 1
  | .draw _ _ _ => 1
  | .stream => c.bands
  | .streambuf _ _ parts => parts.toNat

/-- `rows_k`, the rows of band `k` (42_streamer.md R192). -/
def Config.bandHeight (c : Config) (k : Nat) : Nat := min c.bandRows (c.height - k * c.bandRows)

/-- `BAND_FIELDS(k)` (42_streamer.md R193); the list has an entry for every band. -/
def Config.bandFieldsAt (c : Config) (k : Nat) : HeaderFields := c.bandFields.getD k ⟨0, 0, 0, 0⟩

/-- `PART_FIELDS(i, parts, n)` (42_streamer.md R201): what the configuration fixes, else a free value (log entry 3). -/
def Config.partFieldsAt (c : Config) (i parts n : Nat) : HeaderFields :=
  (c.partFields.lookup (i, parts, n)).getD (Config.partFieldsFree i parts n)

/-- The command of packet `k` of an operation (30_encoding.md R116; 42_streamer.md R192, R194, R201, R202). -/
def State.command (s : State) (k : Nat) : Job → Option Command
  | .dither => none
  | .clear => some ⟨s.cfg.cmdClear, ⟨0, 0, 0, 0⟩, []⟩
  | .bright level => some ⟨s.cfg.cmdSetBrightness, ⟨0, 0, 0, 0⟩, [level]⟩
  | .draw fields paddr plen => some ⟨s.cfg.cmdDraw, fields, s.memRead paddr.toNat plen.toNat⟩
  | .stream =>
    some ⟨s.cfg.cmdDraw, Config.bandFieldsAt s.cfg k,
      s.memRead (k * s.cfg.bandRows * s.cfg.rowBytes) (Config.bandHeight s.cfg k * s.cfg.rowBytes)⟩
  | .streambuf paddr plen parts =>
    let n := plen.toNat / parts.toNat
    some ⟨s.cfg.cmdDraw, Config.partFieldsAt s.cfg k parts.toNat n, s.memRead (paddr.toNat + k * n) n⟩

end Sys2Proof.Machine
end

