-- ==== Sys2Proof/Machine/Dither.lean ====
section
/-! DEFINITION. Unit DTH: the two block steps of DITHER (40_dither.md R147), and the operation as one function (R142). -/

namespace Sys2Proof.Machine

/-! ### The arithmetic of one pixel, shared by both forms -/

/-- `quot(a, b)`: integer division truncating toward zero (00_scope.md R19). -/
def quot (a b : Int) : Int := Int.tdiv a b

/-- `bit`: strict and signed (40_dither.md R135). -/
def thresholdBit (t : Nat) (v : Int) : Bool := decide ((t : Int) < v)

/-- `diff = v - quantized` (40_dither.md R137). -/
def quantError (t : Nat) (v : Int) : Int := if thresholdBit t v then v - 255 else v

/-- An error term: the multiplication first, then one truncating division (40_dither.md R138). -/
def errTerm (weight diff : Int) : Int := quot (weight * diff) 16

/-- `1 << (7 - (c mod 8))`: the place of column `c` in its byte (40_dither.md R136). -/
def pixelMask (c : Nat) : Byte := BitVec.twoPow 8 (7 - c % 8)

/-! ### Block steps (40_dither.md R147) -/

/-- Phase LOAD: every sample is copied into ACC, then the bitmap region is zeroed (40_dither.md R132). -/
def State.loadStep (s : State) : State :=
  { s with
    acc := Memory.fill s.cfg.pixels fun i => (s.readFb i).setWidth 16
    fb := Memory.fill s.cfg.bmpBytes (fun _ => 0) ++ Memory.above s.fb s.cfg.bmpBytes
    phase := .scan
    row := 0
    col := 0 }

/-- Add an error term to a neighbour's entry, if the neighbour is inside the frame (40_dither.md R139). -/
def State.diffuse (s : State) (inside : Bool) (i : Nat) (term : Int) : State :=
  if inside then s.writeAcc i ((s.readAcc i).toInt + term) else s

/-- The bit of pixel (`r`, `c`) packed into the bitmap (40_dither.md R136). -/
def State.packBit (s : State) (bit : Bool) (r c : Nat) : State :=
  let a := r * s.cfg.rowBytes + c / 8
  if bit then s.writeFb a (s.readFb a ||| pixelMask c) else s

/-- Pixel (`r`, `c`): read, threshold, pack, diffuse (40_dither.md R134 to R139). -/
def State.pixelStep (s : State) (r c : Nat) : State :=
  let w := s.cfg.width
  let h := s.cfg.height
  let v := (s.readAcc (r * w + c)).toInt
  let diff := quantError s.cfg.threshold v
  let s := s.packBit (thresholdBit s.cfg.threshold v) r c
  let s := s.diffuse (decide (c + 1 < w)) (r * w + (c + 1)) (errTerm 7 diff)
  let s := s.diffuse (decide (r + 1 < h ∧ 1 ≤ c)) ((r + 1) * w + (c - 1)) (errTerm 3 diff)
  let s := s.diffuse (decide (r + 1 < h)) ((r + 1) * w + c) (errTerm 5 diff)
  s.diffuse (decide (r + 1 < h ∧ c + 1 < w)) ((r + 1) * w + (c + 1)) (errTerm 1 diff)

/-- Phase SCAN: one pixel, then the advance of COL and ROW, or completion (40_dither.md R147). -/
def State.scanStep (s : State) : State :=
  let t := s.pixelStep s.row s.col
  if s.col + 1 < s.cfg.width then { t with col := s.col + 1 }
  else if s.row + 1 < s.cfg.height then { t with col := 0, row := s.row + 1 }
  else t.endDither

/-! ### The operation as one function (40_dither.md R142), on unbounded integers -/

/-- `list[i] += e`, for an index inside the list. -/
def addAt (acc : List Int) (i : Nat) (e : Int) : List Int := acc.set i (acc.getD i 0 + e)

/-- The body of the two loops of `dither_fn`, on the pair (acc, bitmap). -/
def ditherPixel (w h t : Nat) (st : List Int × List Byte) (r c : Nat) : List Int × List Byte :=
  let v := st.1.getD (r * w + c) 0
  let a := r * (w / 8) + c / 8
  let bitmap := if thresholdBit t v then st.2.set a (st.2.getD a 0 ||| pixelMask c) else st.2
  let diff := quantError t v
  let acc := if c + 1 < w then addAt st.1 (r * w + c + 1) (errTerm 7 diff) else st.1
  let acc := if r + 1 < h ∧ 1 ≤ c then addAt acc ((r + 1) * w + c - 1) (errTerm 3 diff) else acc
  let acc := if r + 1 < h then addAt acc ((r + 1) * w + c) (errTerm 5 diff) else acc
  let acc := if r + 1 < h ∧ c + 1 < w then addAt acc ((r + 1) * w + c + 1) (errTerm 1 diff) else acc
  (acc, bitmap)

/-- `dither_fn(frame, WIDTH, HEIGHT, T)`: the bitmap of a frame of `w * h` bytes (40_dither.md R142). -/
def ditherFn (frame : List Byte) (w h t : Nat) : List Byte :=
  ((List.range h).foldl
    (fun st r => (List.range w).foldl (fun st c => ditherPixel w h t st r c) st)
    (frame.map fun b => (b.toNat : Int), List.replicate (w / 8 * h) 0)).2

end Sys2Proof.Machine
end

