-- ==== Sys2Proof/Machine/Framer.lean ====
section
/-! DEFINITION. Unit FRM: its block steps, one for each stage of the loop body of 42_streamer.md R194 and R202, which the
single-packet operations go through once. -/

namespace Sys2Proof.Machine

/-- Put a built packet into TXBUF, ready to be handed over (10_state.md R43). -/
def State.loadTx (s : State) (bytes : List Byte) : State :=
  { s with txbuf := bytes, txlen := bytes.length, stage := .handOver }

/-- How many packets the operation in progress sends. -/
def State.packets (s : State) : Nat :=
  match s.job with
  | some j => j.packets s.cfg
  | none => 0

/-- Stage build: packet K is built into TXBUF, or PacketTooLargeError is raised (41_framer.md R160, R163). -/
def State.buildStep (s : State) : State :=
  match s.job.bind (s.command s.k) with
  | none => s
  | some m =>
    match build s.cfg m with
    | none => s.raise .packetTooLarge
    | some bytes => s.loadTx bytes

/-- Stage handOver: the packet goes to SINK whole, as one datagram, and into OUT (00_scope.md R22, 41_framer.md R164). -/
def State.handOver (s : State) : State :=
  { s with out := s.out ++ [⟨s.txbuf.take s.txlen, none⟩], stage := .await }

/-- The pacing timer starts (10_state.md R45). -/
def State.startPace (s : State) : State := { s with stage := .pace, timer := s.cfg.paceDelay }

/-- SINK's answer is taken: beside its datagram in OUT, and in ERR.SEND (41_framer.md R165). -/
def State.takeAnswer (s : State) (a : Answer) (rest : List Answer) : State :=
  ({ s with sink := rest, out := answerLast a s.out } : State).noteAnswer a

/-- After an answer: the pause before the next packet, or the end of the operation (42_streamer.md R194, R202, R203;
41_framer.md R173). -/
def State.afterAnswer (s : State) : State :=
  if s.k + 1 < s.packets then s.startPace else s.endFramer

/-- Stage await: SINK's answer is noted and the operation goes on whatever it is (41_framer.md R165, 42_streamer.md R195);
without an answer the operation waits (70_reset_and_hazards.md R276). -/
def State.awaitStep (s : State) : State :=
  match s.sink with
  | [] => s
  | a :: rest => (s.takeAnswer a rest).afterAnswer

/-- Stage pace: PACE_DELAY has passed; on to the next packet (42_streamer.md R203; log entry 16). -/
def State.paceStep (s : State) : State := { s with timer := 0, k := s.k + 1, stage := .build }

end Sys2Proof.Machine
end

