-- ==== Sys2Proof/Machine/Sequencer.lean ====
section
/-! DEFINITION. One step of the block, a run of steps, and the issue of an operation. -/

namespace Sys2Proof.Machine

/-- The operation in progress waits for SINK (70_reset_and_hazards.md R276). -/
def State.waiting (s : State) : Bool := decide (s.stage = .await) && s.sink.isEmpty

/-- The block has a step to make. -/
def State.active (s : State) : Bool := s.busy && !s.waiting

/-- One block step of the unit that is active (20_memory.md R84: at most one is). -/
def State.advance (s : State) : State :=
  match s.stage with
  | .build => s.buildStep
  | .handOver => s.handOver
  | .await => s.awaitStep
  | .pace => s.paceStep
  | .idle =>
    match s.phase with
    | .load => s.loadStep
    | .scan => s.scanStep
    | .idle => s

/-- At most `n` block steps, until the operation ends or waits for SINK. -/
def runFor : Nat → State → State
  | 0, s => s
  | n + 1, s => if s.active then runFor n s.advance else s

/-- More block steps than the operation in progress can need: one LOAD and PIXELS SCAN steps (40_dither.md R147), four
steps a packet. -/
def State.work (s : State) : Nat :=
  match s.job with
  | none => 0
  | some .dither => s.cfg.pixels + 1
  | some j => 4 * j.packets s.cfg

/-- The block runs until HOST's next access lands: `n` block steps, or as far as it can, to the end of the operation or
until it waits for SINK. -/
def State.settle (s : State) : State :=
  match s.window with
  | none => runFor s.work s
  | some n => runFor n s

/-- A write of an operation number to OP: ignored while BUSY, where the operation in progress goes on, and while HALT
(10_state.md R38, 30_encoding.md R114, 60_exceptions.md R230; log entry 9). -/
def State.issue (s : State) (body : Host.Outcome State Fault Refusal) : Host.Outcome State Fault Refusal :=
  if s.busy || s.halt then .next s.settle else body

/-- DTH starts DITHER: BUSY is set and PHASE is LOAD (40_dither.md R147). -/
def State.startDither (s : State) : State := { s with busy := true, job := some .dither, phase := .load }

/-- FRM starts an operation with its sampled operands: BUSY is set and K is 0 (10_state.md R38, R43). -/
def State.startFramer (s : State) (job : Job) : State := { s with busy := true, job := some job, k := 0, stage := .build }

/-- FRM takes up a command: the operation in progress stays, and where there is none it is `alone` (log entry 14). -/
def State.engage (s : State) (alone : Job) : State := { s with busy := true, job := some (s.job.getD alone) }

/-- FRM is given one command: `build`, then `emit` (30_encoding.md R116; 41_framer.md R160 to R165). Within an operation it
is that operation's packet; where none is in progress, it is the packet of the single-packet operation `alone` (log
entry 14). DESIGN CHOICE: STATUS.HALT is not looked at, since what a halted block ignores is a write to OP (60_exceptions.md
R230) and a packet row is none; no run reaches a packet to hand over in a halted block (log entry 27). -/
def State.send (s : State) (m : Command) (alone : Job) : State :=
  match build s.cfg m with
  | none => s.raise .packetTooLarge
  | some bytes => ((s.engage alone).loadTx bytes).handOver.settle

end Sys2Proof.Machine
end

