-- ==== Sys2Proof/Machine/Ditherer.lean ====
section
/-! DEFINITION. The operation of unit DTH (40_dither.md). -/

namespace Sys2Proof.Machine

/-- DITHER: the check of the declared length at issue (40_dither.md R131), then LOAD and SCAN (R132 to R141). -/
def execDither (s : State) : Host.Outcome State Fault Refusal :=
  s.issue
    (if s.fbLen.toNat ≠ s.cfg.pixels then .next (s.raise .invalidDimensions)
     else .next s.startDither.settle)

end Sys2Proof.Machine
end

