-- ==== Sys2Proof/Machine/Packets.lean ====
section
/-! DEFINITION. The packet rows of the table: FRM builds the command and hands it to SINK (30_encoding.md R107, R116; log
entry 14), whatever STATUS.HALT is (log entry 27). -/

namespace Sys2Proof.Machine

/-- Draw, with the fields and payload of the packet (41_framer.md R168; also emitted by 42_streamer.md R194, R202). -/
def execPktDraw (xpos ypos xsize ysize : Half) (payload : List Byte) (s : State) : Host.Outcome State Fault Refusal :=
  .next (s.send ⟨s.cfg.cmdDraw, ⟨xpos, ypos, xsize, ysize⟩, payload⟩
    (.draw ⟨xpos, ypos, xsize, ysize⟩ 0 (BitVec.ofNat 32 payload.length)))

/-- Clear: no payload, all other header fields zero (41_framer.md R166; 30_encoding.md R108). -/
def execPktClear (s : State) : Host.Outcome State Fault Refusal :=
  .next (s.send ⟨s.cfg.cmdClear, ⟨0, 0, 0, 0⟩, []⟩ .clear)

/-- SetBrightness: one payload byte, the other header fields zero (41_framer.md R167; 30_encoding.md R108). -/
def execPktSetBrightness (level : Byte) (s : State) : Host.Outcome State Fault Refusal :=
  .next (s.send ⟨s.cfg.cmdSetBrightness, ⟨0, 0, 0, 0⟩, [level]⟩ (.bright level))

end Sys2Proof.Machine
end

