-- ==== Sys2Proof/Machine/Reserved.lean ====
section
/-! DEFINITION. The reserved operation numbers: the hardware ignores them (30_encoding.md R113; log entry 9). -/

namespace Sys2Proof.Machine

/-- OPC 0: issues nothing, BUSY, the flags and all other state stay (30_encoding.md R113). An operation in progress goes
on. -/
def execReserved0 (s : State) : Host.Outcome State Fault Refusal := .next s.settle

/-- OPC 7: issues nothing, BUSY, the flags and all other state stay (30_encoding.md R113). An operation in progress goes
on. -/
def execReserved7 (s : State) : Host.Outcome State Fault Refusal := .next s.settle

end Sys2Proof.Machine
end

