-- ==== Sys2Proof/Machine/SinglePacket.lean ====
section
/-! DEFINITION. The single-packet operations of unit FRM (41_framer.md section 2). -/

namespace Sys2Proof.Machine

/-- CLEAR: one Clear packet (41_framer.md R166). -/
def execClear (s : State) : Host.Outcome State Fault Refusal :=
  s.issue (.next (s.startFramer .clear).settle)

/-- BRIGHT: one SetBrightness packet with the sampled level (41_framer.md R167). -/
def execBright (s : State) : Host.Outcome State Fault Refusal :=
  s.issue (.next (s.startFramer s.sampleBright).settle)

/-- DRAW: the size check, the slice check, then one Draw packet (41_framer.md R168, R170, R171). -/
def execDraw (s : State) : Host.Outcome State Fault Refusal :=
  s.issue
    (if !Config.fits s.cfg s.plen.toNat then .next (s.raise .packetTooLarge)
     else if !s.insideFb s.paddr.toNat s.plen.toNat then .refused .sliceOutsideFb
     else .next (s.startFramer s.sampleDraw).settle)

end Sys2Proof.Machine
end

