-- ==== Sys2Proof/Machine/Streamer.lean ====
section
/-! DEFINITION. The multi-packet operations of unit FRM (42_streamer.md). -/

namespace Sys2Proof.Machine

/-- STREAM: every band of the bitmap in ascending order (42_streamer.md R194); the size check is `build`'s, at band 0
(R196). -/
def execStream (s : State) : Host.Outcome State Fault Refusal :=
  s.issue (.next (s.startFramer .stream).settle)

/-- STREAMBUF: the operands, the size check, the slice check, then every part in ascending order (42_streamer.md R200,
R202; 41_framer.md R171). -/
def execStreambuf (s : State) : Host.Outcome State Fault Refusal :=
  s.issue
    (if s.parts.toNat = 0 then .refused .unequalParts
     else if s.plen.toNat % s.parts.toNat ≠ 0 then .refused .unequalParts
     else if !Config.fits s.cfg (s.plen.toNat / s.parts.toNat) then .next (s.raise .packetTooLarge)
     else if !s.insideFb s.paddr.toNat s.plen.toNat then .refused .sliceOutsideFb
     else .next (s.startFramer s.sampleStreambuf).settle)

end Sys2Proof.Machine
end

