-- ==== Sys2Proof/Machine/Dispatch.lean ====
section
/-! DEFINITION. One arm per constructor of Instr. -/

namespace Sys2Proof.Machine

def exec (i : Instr) (s : State) : Host.Outcome State Fault Refusal :=
  match i with
  | .pktDraw xpos ypos xsize ysize payload => Sys2Proof.Machine.execPktDraw xpos ypos xsize ysize payload s
  | .pktClear => Sys2Proof.Machine.execPktClear s
  | .pktSetBrightness level => Sys2Proof.Machine.execPktSetBrightness level s
  | .reserved0 => Sys2Proof.Machine.execReserved0 s
  | .dither => Sys2Proof.Machine.execDither s
  | .clear => Sys2Proof.Machine.execClear s
  | .bright => Sys2Proof.Machine.execBright s
  | .draw => Sys2Proof.Machine.execDraw s
  | .stream => Sys2Proof.Machine.execStream s
  | .streambuf => Sys2Proof.Machine.execStreambuf s
  | .reserved7 => Sys2Proof.Machine.execReserved7 s

end Sys2Proof.Machine
end

