-- ==== Sys2Proof/Machine/HostPort.lean ====
section
/-! DEFINITION. What HOST can do to the block (10_state.md R31, R38 to R41; 70_reset_and_hazards.md R260), and where the
next instruction comes from. -/

namespace Sys2Proof.Machine

/-- HOST's queue and the block steps before its next access, as a step leaves them (log entry 5). -/
def State.schedule (s : State) (rest : List HostEvent) (window : Option Nat) : State :=
  { s with host := rest, window := window }

/-- HOST reads a register: no side effect but the data on the port (20_memory.md R80). -/
def State.hostRead (s : State) (index : Nat) : State := { s with rdata := s.readReg index }

/-- HOST writes an FB byte: only while BUSY is 0 (10_state.md R31, 20_memory.md R85), and only where FB exists
(20_memory.md R70). -/
def State.hostFbWrite (s : State) (addr : Nat) (value : Byte) : Host.Outcome State Fault Refusal :=
  if s.busy then .refused .fbWhileBusy
  else if s.cfg.pixels ≤ addr then .fault .fbAddress
  else .next (s.writeFb addr value)

/-- HOST reads an FB byte, under the same conditions. -/
def State.hostFbRead (s : State) (addr : Nat) : Host.Outcome State Fault Refusal :=
  if s.busy then .refused .fbWhileBusy
  else if s.cfg.pixels ≤ addr then .fault .fbAddress
  else .next { s with rdata := (s.readFb addr).toNat }

/-- A number of group OP that selects no operation (30_encoding.md R113). -/
def isReserved (i : Instr) : Bool := decide (i = .reserved0) || decide (i = .reserved7)

/-- Why HOST, keeping its duty, has no such write to OP: BUSY is 1 (30_encoding.md R114, 70_reset_and_hazards.md R266), or
the number is reserved (30_encoding.md R113). While HALT every write is ignored, which is defined (60_exceptions.md R230,
90_conflicts.md C18). -/
def State.opBreach (s : State) (value : Nat) : Option Refusal :=
  if !s.dutiful then none
  else if s.busy then some .opWhileBusy
  else if !s.halt && isReserved (decodeOp value) then some .reservedOperation
  else none

/-- HOST writes OP: the operation the value names is executed (10_state.md R38), unless the write is one of those the model
refuses (60_exceptions.md R237; log entry 9). -/
def State.hostOp (s : State) (value : Nat) : Host.Outcome State Fault Refusal :=
  match s.opBreach value with
  | some r => .refused r
  | none => exec (decodeOp value) s

/-- One access of HOST. A write to OP runs the operation it names (10_state.md R38); after every other access the block
goes on with the operation in progress, if there is one. -/
def State.hostMove (s : State) : HostMove → Host.Outcome State Fault Refusal
  | .write 0 value => s.hostOp value
  | .write (index + 1) value => .next (s.writeReg (index + 1) value).settle
  | .read index => .next (s.hostRead index).settle
  | .fbWrite addr value => s.hostFbWrite addr value
  | .fbRead addr => s.hostFbRead addr
  | .reset => .next s.resetInput

/-- The packet FRM has assembled in TXBUF and not yet handed over, decoded (log entry 14). -/
def State.pendingPacket (s : State) : Option Instr :=
  if s.busy && decide (s.stage = .handOver) then (decode s.cfg .wire (s.txbuf.take s.txlen)).toOption else none

/-- The block alone, HOST having no access queued: the packet in TXBUF is executed, or the operation in progress goes
on. -/
def State.blockMove (s : State) : Host.Outcome State Fault Refusal :=
  match s.pendingPacket with
  | some i => exec i s
  | none => .next s.settle

/-- FRM with a packet assembled in TXBUF, HOST having no access queued. -/
def State.withPacket (s : State) (bytes : List Byte) : State :=
  { s with
    host := []
    busy := true
    job := some (match decode s.cfg .wire bytes with
      | .ok (.pktDraw x y w h payload) => .draw ⟨x, y, w, h⟩ 0 (BitVec.ofNat 32 payload.length)
      | .ok (.pktSetBrightness level) => .bright level
      | _ => .clear)
    k := 0
    stage := .handOver
    txbuf := bytes
    txlen := bytes.length }

/-- HOST about to write a value to OP and to wait for BUSY to fall, whatever its duty: a reserved number lands too (log
entry 9). -/
def State.withOpWrite (s : State) (value : Nat) : State :=
  { s with host := [⟨.write 0 value, none⟩], dutiful := false }

end Sys2Proof.Machine
end

