-- ==== Sys2Proof/Machine/Step.lean ====
section
/-! DEFINITION. One step: HOST's next access, or the block alone; and the host's way to place an instruction where the next
step fetches it. -/

namespace Sys2Proof.Machine

/-- One step of the machine. HOST's next access lands and the block then runs until the one after it lands; without a
queued access the block runs on by itself, as far as it can (log entry 5). -/
def step (s : State) : Host.Outcome State Fault Refusal :=
  match s.host with
  | [] => (s.schedule [] none).blockMove
  | e :: rest => (s.schedule rest e.window).hostMove e.move

/-- The state whose very next step runs the instruction with these bits: a packet header in TXBUF, or HOST's write to OP
(log entries 5, 9, 14, 23). -/
def State.withFetchWord (s : State) (nbits w : Nat) : State :=
  if nbits = 80 then s.withPacket (tablePacket s.cfg w) else s.withOpWrite w

end Sys2Proof.Machine
end

