-- ==== Sys2Proof/Safety.lean ====
section
/-! DEFINITION. The terms claims are stated in: what stays the same, the packets the spec says an operation sends, the
conditions under which an operation runs, and the invariant of the machine. -/

namespace Sys2Proof.Machine

/-! ### When an operation runs -/

/-- The block is idle and not halted, and HOST waits for BUSY to fall (70_reset_and_hazards.md R266). -/
structure Ready (s : State) : Prop where
  busy   : s.busy = false
  halt   : s.halt = false
  phase  : s.phase = .idle
  stage  : s.stage = .idle
  job    : s.job = none
  timer  : s.timer = 0
  window : s.window = none

/-- The block is idle again after an operation. -/
structure Idle (s : State) : Prop where
  busy   : s.busy = false
  phase  : s.phase = .idle
  stage  : s.stage = .idle
  job    : s.job = none
  timer  : s.timer = 0

/-! ### What stays the same -/

/-- The nine operand registers (10_state.md R41, indices 3 to 11). -/
structure SameOperands (s t : State) : Prop where
  fbLen  : t.fbLen = s.fbLen
  xpos   : t.xpos = s.xpos
  ypos   : t.ypos = s.ypos
  xsize  : t.xsize = s.xsize
  ysize  : t.ysize = s.ysize
  paddr  : t.paddr = s.paddr
  plen   : t.plen = s.plen
  bright : t.bright = s.bright
  parts  : t.parts = s.parts

/-- Every byte of FB reads as before. -/
def SameFb (s t : State) : Prop := ∀ a, t.readFb a = s.readFb a

/-- Every entry of ACC reads as before. -/
def SameAcc (s t : State) : Prop := ∀ i, t.readAcc i = s.readAcc i

/-- PHASE, ROW and COL. -/
def SameDth (s t : State) : Prop := t.phase = s.phase ∧ t.row = s.row ∧ t.col = s.col

/-- The stage and K of FRM, TXBUF, TXLEN and the pacing timer. -/
def SameFrm (s t : State) : Prop :=
  t.stage = s.stage ∧ t.k = s.k ∧ t.txbuf = s.txbuf ∧ t.txlen = s.txlen ∧ t.timer = s.timer

/-- The flags of STATUS and ERR. -/
def SameFlags (s t : State) : Prop :=
  t.busy = s.busy ∧ t.halt = s.halt ∧ t.errDim = s.errDim ∧ t.errPkt = s.errPkt ∧ t.errSend = s.errSend

/-- The configuration, HOST's inputs and read data, which no operation touches. -/
def SameOutside (s t : State) : Prop :=
  t.cfg = s.cfg ∧ t.host = s.host ∧ t.window = s.window ∧ t.rdata = s.rdata ∧ t.dutiful = s.dutiful

/-- What no operation of FRM and no packet changes: all but STATUS, ERR.PKT, ERR.SEND, OUT, SINK's answers and FRM's own
sequencer and buffer (41_framer.md R166 to R168, 42_streamer.md R194, R204). -/
structure FramerFrame (s t : State) : Prop where
  operands : SameOperands s t
  fb       : SameFb s t
  acc      : SameAcc s t
  dth      : SameDth s t
  outside  : SameOutside s t
  errDim   : t.errDim = s.errDim

/-- What DITHER does not change: all but FB, ACC, STATUS, ERR.DIM and its own sequencer (40_dither.md R130, R141). -/
structure DitherFrame (s t : State) : Prop where
  operands : SameOperands s t
  frm      : SameFrm s t
  outside  : SameOutside s t
  out      : t.out = s.out
  sink     : t.sink = s.sink
  halt     : t.halt = s.halt
  errPkt   : t.errPkt = s.errPkt
  errSend  : t.errSend = s.errSend

/-- What PacketTooLargeError does, and nothing else: ERR.PKT and HALT set, BUSY 0, no datagram (60_exceptions.md R222). -/
structure TooLarge (s t : State) : Prop where
  frame   : FramerFrame s t
  errPkt  : t.errPkt = true
  halt    : t.halt = true
  busy    : t.busy = false
  errSend : t.errSend = s.errSend
  out     : t.out = s.out
  sink    : t.sink = s.sink

/-- What an operation of FRM does that sends these datagrams with these answers (41_framer.md R165, R173): they end OUT,
ERR.SEND is set if an answer was `err` and stays otherwise, the block is idle, and FRM's frame holds. -/
structure SentAll (s t : State) (sent : List Sent) (answers rest : List Answer) : Prop where
  frame   : FramerFrame s t
  out     : t.out = s.out ++ sent
  errSend : t.errSend = (s.errSend || answers.contains .err)
  errPkt  : t.errPkt = s.errPkt
  halt    : t.halt = s.halt
  idle    : Idle t
  sink    : t.sink = rest

/-! ### The packets the spec says are sent -/

/-- The Clear packet (41_framer.md R166). -/
def clearPacket (c : Config) : List Byte := encodeHeader c.hdrBigEndian c.cmdClear ⟨0, 0, 0, 0⟩

/-- The SetBrightness packet (41_framer.md R167). -/
def brightPacket (c : Config) (level : Byte) : List Byte :=
  encodeHeader c.hdrBigEndian c.cmdSetBrightness ⟨0, 0, 0, 0⟩ ++ [level]

/-- A Draw packet (41_framer.md R168). -/
def drawPacket (c : Config) (f : HeaderFields) (payload : List Byte) : List Byte :=
  encodeHeader c.hdrBigEndian c.cmdDraw f ++ payload

/-- The payload of band `k` (42_streamer.md R192). -/
def bandPayload (s : State) (k : Nat) : List Byte :=
  s.memRead (k * s.cfg.bandRows * s.cfg.rowBytes) (Config.bandHeight s.cfg k * s.cfg.rowBytes)

/-- The packet of band `k` (42_streamer.md R194). -/
def bandPacket (s : State) (k : Nat) : List Byte := drawPacket s.cfg (Config.bandFieldsAt s.cfg k) (bandPayload s k)

/-- The packet of part `i` of STREAMBUF, with the part length `n` (42_streamer.md R201, R202). -/
def partPacket (s : State) (n i : Nat) : List Byte :=
  drawPacket s.cfg (Config.partFieldsAt s.cfg i s.parts.toNat n) (s.memRead (s.paddr.toNat + i * n) n)

/-- Packets `k`, `k+1`, ... with one answer each, as OUT records them. -/
def sentFrom (packet : Nat → List Byte) (k : Nat) (answers : List Answer) : List Sent :=
  (answers.zipIdx k).map fun e => ⟨packet e.2, some e.1⟩

/-! ### The invariant -/

/-- What holds of FRM while it is at work: K counts a packet of an operation of FRM, before the hand-over TXBUF holds one
whole packet (10_state.md R43), and the pause is followed by another packet (42_streamer.md R203). -/
def FramerInv (s : State) : Prop :=
  s.stage ≠ .idle → s.busy = true ∧ s.phase = .idle ∧ s.job ≠ some .dither ∧ s.k < s.packets ∧
    (s.stage = .handOver → s.txlen = s.txbuf.length ∧ 10 ≤ s.txbuf.length) ∧
    (s.stage = .pace → s.k + 1 < s.packets)

/-- What holds of the block whenever a step begins, from reset on. -/
structure State.Inv (s : State) : Prop where
  /-- FB is in canonical form and lists no address that does not exist (20_memory.md R70). -/
  fbWf : Memory.wf s.fb
  fbBound : ∀ e ∈ s.fb, e.1 < s.cfg.pixels
  /-- ACC is in canonical form and has no entry beyond the frame (20_memory.md R74). -/
  accWf : Memory.wf s.acc
  accBound : ∀ e ∈ s.acc, e.1 < s.cfg.pixels
  /-- HALT and ERR.PKT are set together and cleared together (60_exceptions.md R222, R230). -/
  haltPkt : s.halt = s.errPkt
  /-- A halted block runs no operation (60_exceptions.md R230). -/
  haltIdle : s.halt = true → s.busy = false
  /-- BUSY is 1 exactly while an operation is in progress (10_state.md R39). -/
  busyJob : s.busy = true ↔ s.job ≠ none
  /-- BUSY is 1 only while DTH or FRM is at work, and at most one of them is (20_memory.md R84). -/
  busyUnit : s.busy = true ↔ (s.phase ≠ .idle ∨ s.stage ≠ .idle)
  /-- DTH works on DITHER only (10_state.md R42). -/
  dthJob : s.phase ≠ .idle → s.job = some .dither
  /-- The ranges of ROW and COL (10_state.md R42). -/
  rowRange : s.row < s.cfg.height
  colRange : s.col < s.cfg.width
  frm : FramerInv s
  /-- TXBUF never holds more than MAX_PACKET_SIZE bytes (10_state.md R43). -/
  txBound : s.txbuf.length ≤ s.cfg.maxPacketSize
  txLenBound : s.txlen ≤ s.cfg.maxPacketSize
  /-- The pacing timer runs only between two packets (42_streamer.md R203). -/
  timerIdle : s.stage ≠ .pace → s.timer = 0
  /-- Every datagram is one packet: a header at least, MAX_PACKET_SIZE at most (41_framer.md R161, R174). -/
  outBound : ∀ e ∈ s.out, 10 ≤ e.bytes.length ∧ e.bytes.length ≤ s.cfg.maxPacketSize
  /-- FRM waits only for a datagram it has handed over. -/
  outPending : s.stage = .await → s.out ≠ []

/-- These bytes are a packet of the block: a 10-byte Clear, an 11-byte SetBrightness, or a Draw of 10 to MAX_PACKET_SIZE
bytes (41_framer.md R174, 30_encoding.md R110). -/
def IsPacket (c : Config) (bytes : List Byte) : Prop := ∃ i, decode c .wire bytes = .ok i

/-- Every datagram handed over is a packet of the block, and so is what FRM is about to hand over. -/
structure State.PacketInv (s : State) : Prop where
  out : ∀ e ∈ s.out, IsPacket s.cfg e.bytes
  tx  : s.stage = .handOver → IsPacket s.cfg (s.txbuf.take s.txlen)

end Sys2Proof.Machine
end

