-- ==== Sys2Proof/Certificates/Slice0/Obligations.lean ====
section
/-! DEFINITION. The statements for the provers, one `def Obligations.<Name> : Prop` each. -/

open Sys2Proof Sys2Proof.Machine

/-! ### Encodings -/

/-- Decoding the words of a well-formed instruction gives it back, with every operand at every value, under every
configuration (30_encoding.md R101, R103, R107, R110, R112). -/
def Obligations.DecodeEncodeRoundTrip : Prop :=
  ∀ (c : Config) (i : Instr), i.wf c = true → decode c i.space (encode c i) = .ok i

/-- A packet the decoder accepts is the encoding of the instruction it answers, which is well-formed: no byte of it is
dropped (30_encoding.md R105, R110, R117; the zero fields of Clear and SetBrightness: log entry 15). -/
def Obligations.EncodeDecodeRoundTrip : Prop :=
  ∀ (c : Config) (bytes : List Byte) (i : Instr), decode c .wire bytes = .ok i →
    i.space = .wire ∧ i.wf c = true ∧ encode c i = bytes

/-- A few words written out from the spec's encodings, under every configuration that has TC-S's codes and byte order
(95_test_vectors.md V18, V20, V21; 30_encoding.md R112). -/
def Obligations.SpecWordsDecode : Prop :=
  ∀ c : Config, c.cmdDraw = 0x0D12 → c.cmdClear = 0x0C02 → c.cmdSetBrightness = 0x0B07 → c.hdrBigEndian = true →
    12 ≤ c.maxPacketSize →
    decode c .wire [0x0D, 0x12, 0x01, 0x02, 0xFF, 0xFF, 0x80, 0x00, 0x00, 0xFF, 0x2A, 0xDF] =
      .ok (.pktDraw 0x0102 0xFFFF 0x8000 0x00FF [0x2A, 0xDF]) ∧
    decode c .wire [0x0C, 0x02, 0, 0, 0, 0, 0, 0, 0, 0] = .ok .pktClear ∧
    decode c .wire [0x0B, 0x07, 0, 0, 0, 0, 0, 0, 0, 0, 0x80] = .ok (.pktSetBrightness 0x80) ∧
    decode c .opReg [1] = .ok .dither ∧ decode c .opReg [6] = .ok .streambuf

/-- The header is one 80-bit value whose byte `i` is `H[79-8i : 72-8i]`; in the other byte order the two bytes of each
field are exchanged (30_encoding.md R104). -/
def Obligations.HeaderIsEightyBitValue : Prop :=
  ∀ (cmd : Half) (f : HeaderFields),
    let h : Nat := (((cmd.toNat * 2 ^ 16 + f.xpos.toNat) * 2 ^ 16 + f.ypos.toNat) * 2 ^ 16 + f.xsize.toNat) * 2 ^ 16 +
      f.ysize.toNat
    (∀ i < 10, (encodeHeader true cmd f)[i]? = some (BitVec.ofNat 8 (h / 2 ^ (72 - 8 * i)))) ∧
    (∀ j < 5, (encodeHeader false cmd f)[2 * j]? = (encodeHeader true cmd f)[2 * j + 1]? ∧
      (encodeHeader false cmd f)[2 * j + 1]? = (encodeHeader true cmd f)[2 * j]?) ∧
    h / 2 ^ 64 = cmd.toNat ∧ h / 2 ^ 48 % 2 ^ 16 = f.xpos.toNat ∧ h / 2 ^ 32 % 2 ^ 16 = f.ypos.toNat ∧
    h / 2 ^ 16 % 2 ^ 16 = f.xsize.toNat ∧ h % 2 ^ 16 = f.ysize.toNat

/-- The operation is OP[2:0], the bits above ignored, by the numbers of 30_encoding.md R112 (10_state.md R38). -/
def Obligations.OpNumberSelectsOperation : Prop :=
  ∀ v n : Nat, n < 8 →
    decodeOp (8 * v + n) =
      [Instr.reserved0, .dither, .clear, .bright, .draw, .stream, .streambuf, .reserved7].getD n .reserved7 ∧
    (decodeOp (8 * v + n)).opc = some n

/-! ### A step runs the decoded instruction -/

/-- A write to OP at the head of HOST's queue runs the operation it names, the queue then being the rest: whatever the
state and the value where HOST is not held to its duty, and otherwise but for a write while BUSY and a reserved number while
not HALT, which are refused (10_state.md R38; the queue and the duty are the model's inputs, log entries 5, 9). -/
def Obligations.StepRunsOperation : Prop :=
  ∀ (s : State) (value : Nat) (w : Option Nat) (rest : List HostEvent), s.host = ⟨.write 0 value, w⟩ :: rest →
    (s.dutiful = false ∨ (s.busy = false ∧ (s.halt = true ∨ (value % 8 ≠ 0 ∧ value % 8 ≠ 7))) →
      step s = exec (decodeOp value) (s.schedule rest w)) ∧
    (s.dutiful = true → s.busy = true → step s = .refused .opWhileBusy) ∧
    (s.dutiful = true → s.busy = false → s.halt = false → value % 8 = 0 ∨ value % 8 = 7 →
      step s = .refused .reservedOperation) ∧
    (s.schedule rest w).host = rest ∧ (s.schedule rest w).window = w

/-- With no access queued and a packet assembled in TXBUF, the step runs the packet's instruction (log entry 14). -/
def Obligations.StepRunsPacket : Prop :=
  ∀ (s : State) (i : Instr), s.host = [] → s.busy = true → s.stage = .handOver →
    decode s.cfg .wire (s.txbuf.take s.txlen) = .ok i → step s = exec i (s.schedule [] none)

/-- An instruction placed by `withFetchWord` is what the next step runs: a row of any number of bits but 80 as a write to
OP, reserved or not, a row of 80 bits as the packet with that header assembled in TXBUF (log entries 5, 9, 14, 23). -/
def Obligations.StepRunsFetchWord : Prop :=
  ∀ (s : State) (nbits w : Nat),
    (nbits ≠ 80 →
      step (s.withFetchWord nbits w) = exec (decodeOp w) (({ s with dutiful := false } : State).schedule [] none)) ∧
    (nbits = 80 →
      let p := s.withPacket (tablePacket s.cfg w)
      s.withFetchWord nbits w = p ∧ p.txbuf.take p.txlen = tablePacket s.cfg w ∧
      ∀ i, decode s.cfg .wire (tablePacket s.cfg w) = .ok i → step p = exec i (p.schedule [] none))

/-! ### The framer primitive -/

/-- `build` rejects exactly when HEADER_SIZE + n > MAX_PACKET_SIZE, on unbounded integers; otherwise it answers header
and payload, never longer than MAX_PACKET_SIZE; a payload of exactly MAX_PACKET_SIZE - 10 bytes is accepted
(41_framer.md R161). -/
def Obligations.BuildRejectsExactlyTooLarge : Prop :=
  ∀ (c : Config) (m : Command),
    (build c m = none ↔ c.maxPacketSize < 10 + m.payload.length) ∧
    (build c m = none ↔ c.maxPacketSize - 10 < m.payload.length) ∧
    (∀ bytes, build c m = some bytes →
      bytes = encodeHeader c.hdrBigEndian m.cmd m.fields ++ m.payload ∧ bytes.length ≤ c.maxPacketSize) ∧
    (m.payload.length = c.maxPacketSize - 10 → ∃ bytes, build c m = some bytes ∧ bytes.length = c.maxPacketSize)

/-! ### Single-packet operations -/

/-- CLEAR sends one Clear packet and completes (41_framer.md R166, R165). -/
def Obligations.ClearSendsOnePacket : Prop :=
  ∀ (s : State) (a : Answer) (rest : List Answer), Ready s → s.sink = a :: rest →
    ∃ t, exec .clear s = .next t ∧ SentAll s t [⟨clearPacket s.cfg, some a⟩] [a] rest

/-- BRIGHT sends one SetBrightness packet with the register's byte and completes, where 11 bytes fit (41_framer.md R167). -/
def Obligations.BrightSendsOnePacket : Prop :=
  ∀ (s : State) (a : Answer) (rest : List Answer), Ready s → s.sink = a :: rest → 11 ≤ s.cfg.maxPacketSize →
    ∃ t, exec .bright s = .next t ∧ SentAll s t [⟨brightPacket s.cfg s.bright, some a⟩] [a] rest

/-- BRIGHT halts the block where MAX_PACKET_SIZE is 10 (41_framer.md R167; 60_exceptions.md R222). -/
def Obligations.BrightHaltsWhenLimitIsTen : Prop :=
  ∀ s : State, Ready s → s.cfg.maxPacketSize = 10 → ∃ t, exec .bright s = .next t ∧ TooLarge s t

/-- DRAW sends one Draw packet with the four field registers and the slice of FB, where the packet fits and the slice is
inside FB (41_framer.md R168, R169, R175). -/
def Obligations.DrawSendsItsSlice : Prop :=
  ∀ (s : State) (a : Answer) (rest : List Answer), Ready s → s.sink = a :: rest →
    10 + s.plen.toNat ≤ s.cfg.maxPacketSize → s.paddr.toNat + s.plen.toNat ≤ s.cfg.pixels →
    ∃ t, exec .draw s = .next t ∧
      SentAll s t
        [⟨drawPacket s.cfg ⟨s.xpos, s.ypos, s.xsize, s.ysize⟩ (s.memRead s.paddr.toNat s.plen.toNat), some a⟩] [a] rest

/-- DRAW's checks in order: the size check raises PacketTooLargeError, and only a slice that passes it and leaves FB is
refused (41_framer.md R168, R170, R171). -/
def Obligations.DrawChecksSizeThenSlice : Prop :=
  ∀ s : State, s.busy = false → s.halt = false →
    (s.cfg.maxPacketSize < 10 + s.plen.toNat → ∃ t, exec .draw s = .next t ∧ TooLarge s t) ∧
    (10 + s.plen.toNat ≤ s.cfg.maxPacketSize → s.cfg.pixels < s.paddr.toNat + s.plen.toNat →
      exec .draw s = .refused .sliceOutsideFb)

/-- SINK's answer: after `err` the operation goes on as after `ok`, ERR.SEND being set and the answer being noted in OUT;
after `ok` no error flag changes (41_framer.md R165). -/
def Obligations.FailedSendOnlySetsErrSend : Prop :=
  ∀ (s : State) (rest : List Answer), s.stage = .await →
    let afterOk := ({ s with sink := .ok :: rest } : State).advance
    let afterErr := ({ s with sink := .err :: rest } : State).advance
    afterErr = { afterOk with errSend := true, out := answerLast .err s.out } ∧
    afterOk.out = answerLast .ok s.out ∧ afterOk.sink = rest ∧ afterOk.errSend = s.errSend ∧
    afterOk.errPkt = s.errPkt ∧ afterOk.errDim = s.errDim ∧ afterOk.halt = s.halt

/-! ### Multi-packet operations -/

/-- STREAM sends every band in ascending order, whatever SINK answers, and completes (42_streamer.md R194, R195, R204). -/
def Obligations.StreamSendsEveryBand : Prop :=
  ∀ (s : State) (answers rest : List Answer), Ready s → answers.length = s.cfg.bands → s.sink = answers ++ rest →
    10 + min s.cfg.bandRows s.cfg.height * s.cfg.rowBytes ≤ s.cfg.maxPacketSize →
    ∃ t, exec .stream s = .next t ∧ SentAll s t (sentFrom (bandPacket s) 0 answers) answers rest

/-- STREAM raises PacketTooLargeError at band 0, before any datagram, exactly when band 0 does not fit; if band 0 fits,
every band fits (42_streamer.md R196). -/
def Obligations.StreamTooLargeBeforeAnyDatagram : Prop :=
  ∀ s : State, Ready s →
    (s.cfg.maxPacketSize < 10 + min s.cfg.bandRows s.cfg.height * s.cfg.rowBytes →
      ∃ t, exec .stream s = .next t ∧ TooLarge s t) ∧
    (10 + min s.cfg.bandRows s.cfg.height * s.cfg.rowBytes ≤ s.cfg.maxPacketSize →
      (∀ k < s.cfg.bands, 10 + (bandPayload s k).length ≤ s.cfg.maxPacketSize) ∧
      ∀ t, exec .stream s = .next t → t.errPkt = s.errPkt ∧ t.halt = false)

/-- The payloads of the bands, concatenated in order, are exactly the bitmap (42_streamer.md R197). -/
def Obligations.StreamPayloadsCoverBitmap : Prop :=
  ∀ s : State, ((List.range s.cfg.bands).map (bandPayload s)).flatten = s.memRead 0 s.cfg.bmpBytes

/-- Every band has BAND_ROWS rows except possibly the last, which has the remainder, between 1 and BAND_ROWS; its slice is
whole rows inside the bitmap (42_streamer.md R192; 20_memory.md R82). -/
def Obligations.BandsAreWholeRowsOfTheBitmap : Prop :=
  ∀ (c : Config) (k : Nat), k < c.bands →
    (k + 1 < c.bands → Config.bandHeight c k = c.bandRows) ∧
    (k + 1 = c.bands → Config.bandHeight c k = c.height - (c.bands - 1) * c.bandRows) ∧
    1 ≤ Config.bandHeight c k ∧ Config.bandHeight c k ≤ c.bandRows ∧
    k * c.bandRows * c.rowBytes + Config.bandHeight c k * c.rowBytes ≤ c.bmpBytes ∧ c.bmpBytes ≤ c.pixels

/-- The two settled properties of BAND_FIELDS, under every configuration, and the default's tiling of the height by the
half-open row ranges [xpos, xpos + xsize) (42_streamer.md R193). -/
def Obligations.BandFieldsTileTheHeight : Prop :=
  (∀ (c : Config) (k : Nat), k < c.bands →
    (Config.bandFieldsAt c k).ysize.toNat = c.width ∧
    ∀ k' < k, (Config.bandFieldsAt c k').xpos.toNat < (Config.bandFieldsAt c k).xpos.toNat) ∧
  ∀ c : Config, c.bandFields = defaultBandFields c.width c.height c.bandRows → ∀ k < c.bands,
    (Config.bandFieldsAt c k).xpos.toNat = k * c.bandRows ∧ (Config.bandFieldsAt c k).ypos = 0 ∧
    (Config.bandFieldsAt c k).xpos.toNat + (Config.bandFieldsAt c k).xsize.toNat =
      if k + 1 < c.bands then (Config.bandFieldsAt c (k + 1)).xpos.toNat else c.height

/-- STREAMBUF sends PARTS equal parts in ascending order, whatever PART_FIELDS is and whatever SINK answers, and completes
(42_streamer.md R201, R202, R204). -/
def Obligations.StreambufSendsEqualParts : Prop :=
  ∀ (s : State) (n : Nat) (answers rest : List Answer), Ready s → 1 ≤ s.parts.toNat → s.plen.toNat = s.parts.toNat * n →
    10 + n ≤ s.cfg.maxPacketSize → s.paddr.toNat + s.plen.toNat ≤ s.cfg.pixels →
    answers.length = s.parts.toNat → s.sink = answers ++ rest →
    ∃ t, exec .streambuf s = .next t ∧ SentAll s t (sentFrom (partPacket s n) 0 answers) answers rest

/-- STREAMBUF's checks in order: PARTS = 0 or PARTS not dividing PLEN is refused; a part that does not fit raises
PacketTooLargeError before any datagram; then a slice that leaves FB is refused (42_streamer.md R200, R202). -/
def Obligations.StreambufChecksInOrder : Prop :=
  ∀ s : State, s.busy = false → s.halt = false →
    (s.parts.toNat = 0 ∨ s.plen.toNat % s.parts.toNat ≠ 0 → exec .streambuf s = .refused .unequalParts) ∧
    (1 ≤ s.parts.toNat → s.plen.toNat % s.parts.toNat = 0 →
      (s.cfg.maxPacketSize < 10 + s.plen.toNat / s.parts.toNat → ∃ t, exec .streambuf s = .next t ∧ TooLarge s t) ∧
      (10 + s.plen.toNat / s.parts.toNat ≤ s.cfg.maxPacketSize → s.cfg.pixels < s.paddr.toNat + s.plen.toNat →
        exec .streambuf s = .refused .sliceOutsideFb))

/-! ### Packets -/

/-- Each packet row: where the block is ready and the packet fits, its bytes are built and handed to SINK as one datagram
(41_framer.md R160, R164, R165; that a packet row is FRM's sending of it is the model's choice, log entry 14). -/
def Obligations.PacketRowsSendThemselves : Prop :=
  ∀ (s : State) (a : Answer) (rest : List Answer) (i : Instr), Ready s → s.sink = a :: rest → i.space = .wire →
    i.wf s.cfg = true → ∃ t, exec i s = .next t ∧ SentAll s t [⟨encode s.cfg i, some a⟩] [a] rest

/-- A packet row that does not fit raises PacketTooLargeError: it is rejected, not truncated (41_framer.md R161, R163; log
entry 14). -/
def Obligations.PacketRowsAreRejectedNotTruncated : Prop :=
  ∀ (s : State) (i : Instr), i.space = .wire → i.wf s.cfg = false → ∃ t, exec i s = .next t ∧ TooLarge s t

/-! ### Reserved numbers, BUSY, HALT -/

/-- The reserved numbers change nothing (30_encoding.md R113, first sentence; the model follows the hardware, log entry
9). -/
def Obligations.ReservedNumbersChangeNothing : Prop :=
  ∀ s : State, s.busy = false → exec .reserved0 s = .next s ∧ exec .reserved7 s = .next s

/-- While HALT every write to OP is ignored (60_exceptions.md R230, 30_encoding.md R114). -/
def Obligations.OperationsIgnoredWhileHalted : Prop :=
  ∀ (s : State) (i : Instr), s.halt = true → s.busy = false → i.space = .opReg → exec i s = .next s

/-- While BUSY every write to OP is ignored: the operation in progress goes on as it would without the write
(30_encoding.md R114, first sentence; log entry 9). -/
def Obligations.OperationsIgnoredWhileBusy : Prop :=
  ∀ (s : State) (i : Instr), s.busy = true → i.space = .opReg → exec i s = .next s.settle

/-- A halted block stays halted and sends nothing, until HOST asserts reset (60_exceptions.md R230, R231). -/
def Obligations.HaltLeftOnlyByReset : Prop :=
  ∀ s t : State, s.Inv → s.halt = true → step s = .next t →
    (t.halt = true ∧ t.errPkt = true ∧ t.out = s.out) ∨ ∃ w rest, s.host = ⟨.reset, w⟩ :: rest

/-! ### DITHER -/

/-- The error terms: one division truncating toward zero after an exact multiplication (00_scope.md R19, 40_dither.md
R138). -/
def Obligations.ErrorTermsTruncateTowardZero : Prop :=
  (∀ a b : Int, 0 < b → quot a b = if 0 ≤ a then a / b else -((-a) / b)) ∧
  (∀ w d : Int, errTerm w d = quot (w * d) 16) ∧
  quot (-1) 16 = 0 ∧ quot (-16) 16 = -1 ∧ quot (-17) 16 = -1 ∧ quot 17 16 = 1

/-- LOAD: every sample is in ACC, the bitmap region is zero, every other FB byte is as it was, and SCAN begins at pixel
(0, 0) (40_dither.md R132, R147). -/
def Obligations.LoadCopiesThenZeroes : Prop :=
  ∀ s : State, s.stage = .idle → s.phase = .load →
    (∀ i < s.cfg.pixels, (s.advance.readAcc i).toInt = (s.readFb i).toNat) ∧
    (∀ a < s.cfg.bmpBytes, s.advance.readFb a = 0) ∧
    (∀ a, s.cfg.bmpBytes ≤ a → s.advance.readFb a = s.readFb a) ∧
    s.advance.phase = .scan ∧ s.advance.row = 0 ∧ s.advance.col = 0 ∧ s.advance.busy = s.busy

/-- The bit of a pixel: exactly bit `7 - c mod 8` of byte `r * ROW_BYTES + c div 8` is set, and only if `v > T`; no other
bit of FB changes (40_dither.md R135, R136). -/
def Obligations.PixelSetsItsBit : Prop :=
  ∀ (s : State) (r c a p : Nat), p < 8 →
    ((s.pixelStep r c).readFb a).getLsbD p =
      ((s.readFb a).getLsbD p ||
        (decide ((s.cfg.threshold : Int) < (s.readAcc (r * s.cfg.width + c)).toInt) &&
          (decide (a = r * s.cfg.rowBytes + c / 8) && decide (p = 7 - c % 8))))

/-- The error of a pixel: each of the four neighbours inside the frame gets its term, and no other entry of ACC changes
(40_dither.md R137, R138, R139); that the 16-bit sum does not wrap is another statement. -/
def Obligations.PixelDiffusesItsError : Prop :=
  ∀ (s : State) (r c i : Nat), r < s.cfg.height → c < s.cfg.width →
    let v := (s.readAcc (r * s.cfg.width + c)).toInt
    let diff := if (s.cfg.threshold : Int) < v then v - 255 else v
    (s.pixelStep r c).readAcc i = s.readAcc i + BitVec.ofInt 16
      ((if c + 1 < s.cfg.width ∧ i = r * s.cfg.width + c + 1 then (7 * diff).tdiv 16 else 0) +
       (if r + 1 < s.cfg.height ∧ 1 ≤ c ∧ i = (r + 1) * s.cfg.width + c - 1 then (3 * diff).tdiv 16 else 0) +
       (if r + 1 < s.cfg.height ∧ i = (r + 1) * s.cfg.width + c then (5 * diff).tdiv 16 else 0) +
       (if r + 1 < s.cfg.height ∧ c + 1 < s.cfg.width ∧ i = (r + 1) * s.cfg.width + c + 1 then (1 * diff).tdiv 16 else 0))

/-- SCAN processes the pixels in row-major order, each once, and DITHER ends after the last: after LOAD and `n` pixels the
next one is number `n`, and the next block step does to FB and ACC what `pixelStep` does at that row and column; the last
one does it to the bitmap and ends DITHER (40_dither.md R133, R147). -/
def Obligations.ScanVisitsPixelsInRasterOrder : Prop :=
  ∀ s : State, s.stage = .idle →
    (∀ n < s.cfg.pixels,
      let u := runFor (n + 1) s.startDither
      u.busy = true ∧ u.phase = .scan ∧ u.row = n / s.cfg.width ∧ u.col = n % s.cfg.width ∧
      runFor (n + 2) s.startDither = u.advance ∧
      (∀ a < s.cfg.bmpBytes, u.advance.readFb a = (u.pixelStep u.row u.col).readFb a) ∧
      (n + 1 < s.cfg.pixels →
        (∀ a, u.advance.readFb a = (u.pixelStep u.row u.col).readFb a) ∧
        ∀ i, u.advance.readAcc i = (u.pixelStep u.row u.col).readAcc i)) ∧
    (runFor (s.cfg.pixels + 1) s.startDither).busy = false ∧ (runFor (s.cfg.pixels + 1) s.startDither).phase = .idle

/-- During the whole of DITHER every accumulator entry lies in [T - 254, 255 + T], every diff in [T - 254, T], every term
between w(T - 254)/16 and wT/16 and every product in [7(T - 254), 7T]: for every legal T all of them fit 12 signed bits, so
no 16-bit entry ever wraps (40_dither.md R144). -/
def Obligations.AccumulatorStaysInRange : Prop :=
  ∀ (s : State) (n : Nat), s.stage = .idle → (runFor n s.startDither).phase = .scan →
    let u := runFor n s.startDither
    let t : Int := s.cfg.threshold
    (∀ i < s.cfg.pixels, t - 254 ≤ (u.readAcc i).toInt ∧ (u.readAcc i).toInt ≤ 255 + t) ∧
    (let d := quantError s.cfg.threshold (u.readAcc (u.row * s.cfg.width + u.col)).toInt
     t - 254 ≤ d ∧ d ≤ t ∧
     ∀ w ∈ [7, 3, 5, 1], w * (t - 254) ≤ 16 * errTerm w d ∧ 16 * errTerm w d ≤ w * t ∧
       7 * (t - 254) ≤ w * d ∧ w * d ≤ 7 * t) ∧
    -2048 ≤ 7 * (t - 254) ∧ 255 + t ≤ 2047 ∧ 7 * t ≤ 2047

/-- DITHER with FB_LEN = PIXELS is `dither_fn` on the frame, computed on unbounded integers; the block is idle afterwards
and nothing outside FB, ACC and the sequencer has changed (40_dither.md R142, R141, R130). -/
def Obligations.DitherIsDitherFn : Prop :=
  ∀ s : State, Ready s → s.fbLen.toNat = s.cfg.pixels →
    ∃ t, exec .dither s = .next t ∧
      t.memRead 0 s.cfg.bmpBytes = ditherFn (s.memRead 0 s.cfg.pixels) s.cfg.width s.cfg.height s.cfg.threshold ∧
      DitherFrame s t ∧ t.errDim = s.errDim ∧ Idle t

/-- DITHER with another declared length sets ERR.DIM and changes nothing else: no halt, no work on the frame
(40_dither.md R131; 60_exceptions.md R221). -/
def Obligations.DitherRejectsWrongLength : Prop :=
  ∀ s : State, s.busy = false → s.halt = false → s.fbLen.toNat ≠ s.cfg.pixels →
    ∃ t, exec .dither s = .next t ∧ t.errDim = true ∧ t.busy = false ∧ t.phase = s.phase ∧ t.row = s.row ∧ t.col = s.col ∧
      t.job = s.job ∧ DitherFrame s t ∧ SameFb s t ∧ SameAcc s t

/-- DITHER is a function of the frame and the parameters: two machines that agree on WIDTH, HEIGHT, T and the frame give
the same bitmap, whatever else differs (40_dither.md R145). -/
def Obligations.DitherDependsOnFrameOnly : Prop :=
  ∀ s s' : State, Ready s → Ready s' → s.cfg.width = s'.cfg.width → s.cfg.height = s'.cfg.height →
    s.cfg.threshold = s'.cfg.threshold → s.fbLen.toNat = s.cfg.pixels → s'.fbLen.toNat = s'.cfg.pixels →
    (∀ a < s.cfg.pixels, s.readFb a = s'.readFb a) →
    ∃ t t', exec .dither s = .next t ∧ exec .dither s' = .next t' ∧ ∀ a < s.cfg.bmpBytes, t.readFb a = t'.readFb a

/-- The bitmap of a frame of the exact dimensions has WIDTH/8 * HEIGHT bytes; an all-zero frame gives a bitmap of zero
bits, an all-255 frame one of one bits (40_dither.md R146). -/
def Obligations.ExtremeFramesGiveExtremeBitmaps : Prop :=
  (∀ (c : Config) (frame : List Byte), frame.length = c.pixels →
    (ditherFn frame c.width c.height c.threshold).length = c.width / 8 * c.height) ∧
  ∀ s : State, Ready s → s.fbLen.toNat = s.cfg.pixels →
    ((∀ a < s.cfg.pixels, s.readFb a = 0) →
      ∃ t, exec .dither s = .next t ∧ ∀ a < s.cfg.bmpBytes, t.readFb a = 0) ∧
    ((∀ a < s.cfg.pixels, s.readFb a = 255) →
      ∃ t, exec .dither s = .next t ∧ ∀ a < s.cfg.bmpBytes, t.readFb a = 255)

/-! ### Frames -/

/-- What the operations of FRM and the packets leave unchanged, however they end and wherever HOST's next access lands:
every operand register, every byte of FB (they store none), ACC, DTH's sequencer, ERR.DIM, the configuration and HOST's
side (41_framer.md R166 to R168; 42_streamer.md R194, R204). The second clause, the packet rows from a block idle or at work,
rests on the model's choice of what executing one is (log entries 14, 27). -/
def Obligations.FramerOperationsKeepTheirFrame : Prop :=
  (∀ (s t : State) (i : Instr), i ∈ [Instr.clear, .bright, .draw, .stream, .streambuf] → s.busy = false →
    exec i s = .next t →
    FramerFrame s t ∧ (s.errSend = true → t.errSend = true) ∧ (s.errPkt = true → t.errPkt = true) ∧
      (s.halt = true → t.halt = true)) ∧
  ∀ (s t : State) (i : Instr), i.space = .wire → exec i s = .next t → FramerFrame s t

/-- What DITHER leaves unchanged, however it ends and wherever HOST's next access lands. It stores to FB addresses 0 to
PIXELS-1, all there are; with another declared length than PIXELS it stores to none (40_dither.md R130, R131). -/
def Obligations.DitherKeepsItsFrame : Prop :=
  ∀ s t : State, s.busy = false → s.stage = .idle → exec .dither s = .next t →
    DitherFrame s t ∧ (s.fbLen.toNat = s.cfg.pixels → t.errDim = s.errDim) ∧
    (s.fbLen.toNat ≠ s.cfg.pixels → SameFb s t ∧ SameAcc s t)

/-! ### HOST's port -/

/-- HOST's write to a register but OP stores it and the block goes on with the operation in progress; HOST's read puts the
register on the port and the block goes on. A register written is read back modulo its width, no other register changes, and
a write does nothing at STATUS and at the indices that do not exist (10_state.md R41, 00_scope.md R20; the port and the
queue are the model's, log entries 5, 19). -/
def Obligations.RegistersReadBack : Prop :=
  (∀ (s : State) (i v : Nat) (w : Option Nat) (rest : List HostEvent), s.host = ⟨.write (i + 1) v, w⟩ :: rest →
    step s = .next ((s.schedule rest w).writeReg (i + 1) v).settle) ∧
  (∀ (s : State) (i : Nat) (w : Option Nat) (rest : List HostEvent), s.host = ⟨.read i, w⟩ :: rest →
    ∃ t, step s = .next t ∧ t.rdata = s.readReg i ∧
      t = ({ s.schedule rest w with rdata := s.readReg i } : State).settle) ∧
  (∀ (s : State) (i v : Nat) (width : Nat), (i, width) ∈ [(3, 32), (4, 16), (5, 16), (6, 16), (7, 16), (8, 32), (9, 32),
      (10, 8), (11, 16)] → (s.writeReg i v).readReg i = v % 2 ^ width) ∧
  (∀ (s : State) (i j v : Nat), i ≠ j → (s.writeReg i v).readReg j = s.readReg j) ∧
  (∀ (s : State) (i v : Nat), i = 1 ∨ 12 ≤ i → s.writeReg i v = s) ∧
  (∀ (s : State) (i : Nat), i = 0 ∨ 12 ≤ i → s.readReg i = 0)

/-- ERR is write-one-to-clear on DIM and SEND; PKT stays; nothing else changes. HOST's write to it does that, and the block
goes on (10_state.md R40, 60_exceptions.md R231). -/
def Obligations.ErrIsWriteOneToClear : Prop :=
  (∀ (s : State) (v : Nat),
    s.writeReg 2 v =
      { s with
        errDim := s.errDim && decide (v % 2 = 0)
        errSend := s.errSend && decide (v / 4 % 2 = 0) }) ∧
  ∀ (s : State) (v : Nat) (w : Option Nat) (rest : List HostEvent), s.host = ⟨.write 2 v, w⟩ :: rest →
    step s = .next
      ({ s with
        host := rest
        window := w
        errDim := s.errDim && decide (v % 2 = 0)
        errSend := s.errSend && decide (v / 4 % 2 = 0) } : State).settle

/-- STATUS and ERR as HOST reads them: the named bits, all other bits 0 (10_state.md R39, R40, R41; the port is the
model's, log entry 19). -/
def Obligations.StatusAndErrWords : Prop :=
  (∀ (s : State) (b : Nat),
    (s.readReg 1).testBit b = ((decide (b = 0) && s.busy) || (decide (b = 1) && s.halt)) ∧
    (s.readReg 2).testBit b =
      ((decide (b = 0) && s.errDim) || (decide (b = 1) && s.errPkt) || (decide (b = 2) && s.errSend))) ∧
  ∀ (s : State) (i : Nat) (w : Option Nat) (rest : List HostEvent), i = 1 ∨ i = 2 → s.host = ⟨.read i, w⟩ :: rest →
    ∃ t, step s = .next t ∧ t.rdata = s.readReg i

/-- Operands are sampled at issue: a register write while an operation runs does not reach it. Each block step commutes
with a write to any register but ERR, so after HOST's write the block stands where it would stand without the write, and
the register holds the new value (10_state.md R38, R41; 20_memory.md R88; log entry 17). -/
def Obligations.RunningOperationDoesNotSeeRegisterWrites : Prop :=
  (∀ (s : State) (i v n : Nat), i ≠ 2 → runFor n (s.writeReg i v) = (runFor n s).writeReg i v) ∧
  ∀ (s : State) (i v : Nat) (w : Option Nat) (rest : List HostEvent), i ≠ 1 →
    s.host = ⟨.write (i + 1) v, w⟩ :: rest → step s = .next ((s.schedule rest w).settle.writeReg (i + 1) v)

/-- HOST's FB port: while idle, inside FB, a byte written is read back and no other byte changes; outside FB the access
faults; while BUSY it is refused (10_state.md R31, 20_memory.md R70, R85; log entries 10, 11). -/
def Obligations.HostFbPort : Prop :=
  ∀ (s : State) (a : Nat) (b : Byte),
    (s.busy = false → a < s.cfg.pixels →
      ∃ t, s.hostMove (.fbWrite a b) = .next t ∧ t.readFb a = b ∧ (∀ x, x ≠ a → t.readFb x = s.readFb x) ∧
        SameOperands s t ∧ SameFlags s t ∧ t.out = s.out ∧
        ∃ u, t.hostMove (.fbRead a) = .next u ∧ u.rdata = b.toNat ∧ SameFb t u) ∧
    (s.busy = false → s.cfg.pixels ≤ a →
      s.hostMove (.fbWrite a b) = .fault .fbAddress ∧ s.hostMove (.fbRead a) = .fault .fbAddress) ∧
    (s.busy = true → s.hostMove (.fbWrite a b) = .refused .fbWhileBusy ∧ s.hostMove (.fbRead a) = .refused .fbWhileBusy)

/-- The reset input: every register and sequencer at its reset value, an operation in progress ended, FB, ACC and TXBUF
without specified content; OUT, SINK and the configuration kept (70_reset_and_hazards.md R260 to R263; 10_state.md R49).
The empty lists, TXLEN's free value, the timer's 0 and the kept list of answers are the model's form of what the spec says
(log entries 6, 7, 8, 16, 25). -/
def Obligations.ResetInputRestoresResetValues : Prop :=
  ∀ (s : State) (w : Option Nat) (rest : List HostEvent), s.host = ⟨.reset, w⟩ :: rest →
    ∃ t, step s = .next t ∧ SameOperands { State.reset with parts := s.cfg.defaultParts } t ∧ SameFlags State.reset t ∧
      SameDth State.reset t ∧ t.stage = .idle ∧ t.k = 0 ∧ t.timer = 0 ∧ t.job = none ∧
      t.fb = [] ∧ t.acc = [] ∧ t.txbuf = [] ∧ t.out = s.out ∧ t.cfg = s.cfg ∧
      t.sink = s.sink ∧ t.txlen = txLenUnspecified t.cfg t.txEpoch

/-! ### Reset -/

/-- The values the spec gives for reset; no byte of FB, entry of ACC or byte of TXBUF has a specified value (10_state.md
R49). The empty lists, TXLEN's free value and the timer's 0 are the model's form of what the spec says (log entries 6, 7, 8,
16, 22). -/
def Obligations.ResetValues : Prop :=
  State.reset.readReg 1 = 0 ∧ State.reset.readReg 2 = 0 ∧ State.reset.fbLen = 0 ∧ State.reset.xpos = 0 ∧
  State.reset.ypos = 0 ∧ State.reset.xsize = 0 ∧ State.reset.ysize = 0 ∧ State.reset.paddr = 0 ∧ State.reset.plen = 0 ∧
  State.reset.bright = 0 ∧ State.reset.parts = State.reset.cfg.defaultParts ∧ State.reset.phase = .idle ∧
  State.reset.row = 0 ∧ State.reset.col = 0 ∧ State.reset.k = 0 ∧ State.reset.timer = 0 ∧ State.reset.fb = [] ∧
  State.reset.acc = [] ∧ State.reset.txbuf = [] ∧ State.reset.busy = false ∧ State.reset.stage = .idle ∧
  State.reset.txlen = txLenUnspecified State.reset.cfg State.reset.txEpoch

/-- Both invariants hold at reset. -/
def Obligations.InvariantHoldsAtReset : Prop := State.reset.Inv ∧ State.reset.PacketInv

/-! ### The whole machine -/

/-- Every step keeps the invariant: the memories stay in canonical form and inside their spaces, HALT goes with ERR.PKT, a
halted block is idle, BUSY is 1 exactly while one unit works on one operation, the counters stay in range, and every
datagram is one packet within the limit (10_state.md R39, R42, R43; 20_memory.md R70, R74, R84; 41_framer.md R161). -/
def Obligations.StepKeepsInvariant : Prop :=
  ∀ s t : State, s.Inv → step s = .next t → t.Inv

/-- Every datagram the block emits is a packet of its closed command set: a 10-byte Clear, an 11-byte SetBrightness or a
Draw of 10 to MAX_PACKET_SIZE bytes, from any state whatever its counters hold (41_framer.md R174, 30_encoding.md R109,
R110). -/
def Obligations.EveryDatagramIsAPacketOfTheBlock : Prop :=
  (∀ s t : State, s.PacketInv → step s = .next t → t.PacketInv) ∧
  ∀ (c : Config) (bytes : List Byte), IsPacket c bytes →
    (10 ≤ bytes.length ∧ bytes.length ≤ c.maxPacketSize ∧ ∃ f payload, bytes = drawPacket c f payload) ∨
    (bytes.length = 10 ∧ bytes = clearPacket c) ∨
    (bytes.length = 11 ∧ ∃ level, bytes = brightPacket c level)

/-- No step changes the configuration (00_scope.md R17). -/
def Obligations.ConfigurationNeverChanges : Prop :=
  ∀ s t : State, step s = .next t → t.cfg = s.cfg

/-- OUT only grows: no step takes back or rewrites a datagram already handed over, not even reset (10_state.md R44;
70_reset_and_hazards.md R262, R263). -/
def Obligations.OutOnlyGrows : Prop :=
  ∀ s t : State, step s = .next t → s.out.map Sent.bytes <+: t.out.map Sent.bytes

/-- The flags are sticky: but for HOST's write to ERR and for reset, no step clears one (10_state.md R40,
60_exceptions.md R232). -/
def Obligations.FlagsAreSticky : Prop :=
  ∀ s t : State, step s = .next t →
    (∀ e rest, s.host = e :: rest → e.move ≠ .reset ∧ ∀ v, e.move ≠ .write 2 v) →
    (s.errDim = true → t.errDim = true) ∧ (s.errPkt = true → t.errPkt = true) ∧ (s.errSend = true → t.errSend = true)

/-- Every operation ends, or waits for SINK, within the block steps `settle` gives it (40_dither.md R147;
70_reset_and_hazards.md R276; log entries 16, 17). -/
def Obligations.EveryOperationEndsOrWaits : Prop :=
  ∀ s : State, s.Inv → s.window = none → s.settle.active = false ∧ (s.settle.busy = true → s.settle.sink = [])

/-- Where SINK never answers, CLEAR has handed its datagram over and waits for ever with BUSY 1
(70_reset_and_hazards.md R276; log entry 4). -/
def Obligations.SilentSinkKeepsBusy : Prop :=
  ∀ s : State, Ready s → s.sink = [] →
    ∃ t, exec .clear s = .next t ∧ t.busy = true ∧ t.stage = .await ∧ t.out = s.out ++ [⟨clearPacket s.cfg, none⟩] ∧
      FramerFrame s t ∧ ∀ n, runFor n t = t

/-- The pacing delay lies between two packets of an operation and not after the last (42_streamer.md R203,
41_framer.md R172; log entry 16). -/
def Obligations.PacingBetweenPackets : Prop :=
  ∀ (s : State) (a : Answer) (rest : List Answer), s.stage = .await → s.sink = a :: rest →
    (s.k + 1 < s.packets →
      s.advance.stage = .pace ∧ s.advance.timer = s.cfg.paceDelay ∧ s.advance.busy = s.busy ∧
      s.advance.advance.stage = .build ∧ s.advance.advance.timer = 0 ∧ s.advance.advance.k = s.k + 1 ∧
      s.advance.advance.out = s.advance.out) ∧
    (s.packets ≤ s.k + 1 → s.advance.stage = .idle ∧ s.advance.timer = s.timer ∧ s.advance.busy = false)

/-! ### The parser, and HOST's duty -/

/-- The parser takes exactly what 30_encoding.md R110 says: at least ten bytes, one of the three codes, a Clear of ten
bytes, a SetBrightness of eleven; everything else is no packet of this block. Every ten bytes or more are a header and a
payload, and the decoder of instructions accepts only what the parser takes (the rows' zero fields and length: log entry
15). -/
def Obligations.ParserTakesTheClosedCommandSet : Prop :=
  (∀ (c : Config) (bytes : List Byte), bytes.length < 10 → parsePacket c bytes = .error .shortPacket) ∧
  (∀ (c : Config) (bytes : List Byte), 10 ≤ bytes.length →
    ∃ cmd f payload, bytes = encodeHeader c.hdrBigEndian cmd f ++ payload ∧
      ((∃ p, parsePacket c bytes = .ok p) ↔
        cmd = c.cmdDraw ∨ (cmd = c.cmdClear ∧ bytes.length = 10) ∨ (cmd = c.cmdSetBrightness ∧ bytes.length = 11)) ∧
      ∀ p, parsePacket c bytes = .ok p →
        (cmd = c.cmdDraw ∧ p = .draw f payload) ∨ (cmd = c.cmdClear ∧ p = .clear f) ∨
          (cmd = c.cmdSetBrightness ∧ ∃ level, payload = [level] ∧ p = .setBrightness f level)) ∧
  ∀ (c : Config) (bytes : List Byte) (i : Instr), decode c .wire bytes = .ok i → ∃ p, parsePacket c bytes = .ok p

/-- The machine gives HOST no step for a breach of its duty: a write to OP while BUSY and a reserved number are refused where
HOST is held to its duty, as it is at reset, and no step changes that; FB while BUSY is refused always. A write to OP while
HALT is no breach: it is a step that changes nothing but HOST's queue (60_exceptions.md R230, R237;
70_reset_and_hazards.md R266; 30_encoding.md R113, R114; log entry 9). -/
def Obligations.StepRefusesBreachesOfHostDuty : Prop :=
  (∀ (s : State) (v : Nat) (w : Option Nat) (rest : List HostEvent), s.host = ⟨.write 0 v, w⟩ :: rest →
    (s.dutiful = true → s.busy = true → step s = .refused .opWhileBusy) ∧
    (s.dutiful = true → s.busy = false → s.halt = false → v % 8 = 0 ∨ v % 8 = 7 → step s = .refused .reservedOperation) ∧
    (s.busy = false → s.halt = true → step s = .next (s.schedule rest w))) ∧
  (∀ (s : State) (a : Nat) (b : Byte) (w : Option Nat) (rest : List HostEvent), s.busy = true →
    s.host = ⟨.fbWrite a b, w⟩ :: rest ∨ s.host = ⟨.fbRead a, w⟩ :: rest → step s = .refused .fbWhileBusy) ∧
  State.reset.dutiful = true ∧ ∀ s t : State, step s = .next t → t.dutiful = s.dutiful
end

