-- ==== Sys2Proof/Laws/Config.lean ====
section
/-! SUPPORT. What a configuration carries: the constraints of 00_scope.md as lemmas, the sizes they give, and the packets'
lengths. -/

namespace Sys2Proof

variable (c : Config)

theorem Config.width_mod : c.width % 8 = 0 := c.ok.1.1
theorem Config.width_ge : 8 ≤ c.width := c.ok.1.2.1
theorem Config.width_le : c.width ≤ 65535 := c.ok.1.2.2
theorem Config.height_pos : 1 ≤ c.height := c.ok.2.1.1
theorem Config.height_le : c.height ≤ 65535 := c.ok.2.1.2
theorem Config.threshold_le : c.threshold ≤ 254 := c.ok.2.2.1
theorem Config.header_le : headerSize ≤ c.maxPacketSize := c.ok.2.2.2.1
theorem Config.draw_ne_clear : c.cmdDraw ≠ c.cmdClear := c.ok.2.2.2.2.1.1
theorem Config.draw_ne_setBrightness : c.cmdDraw ≠ c.cmdSetBrightness := c.ok.2.2.2.2.1.2.1
theorem Config.clear_ne_setBrightness : c.cmdClear ≠ c.cmdSetBrightness := c.ok.2.2.2.2.1.2.2
theorem Config.bandRows_pos : 1 ≤ c.bandRows := c.ok.2.2.2.2.2.1
theorem Config.defaultParts_pos : 1 ≤ c.defaultParts.toNat := c.ok.2.2.2.2.2.2.1
theorem Config.bandFields_length : c.bandFields.length = c.bands := c.ok.2.2.2.2.2.2.2.1
theorem Config.bandFields_ysize : ∀ f ∈ c.bandFields, f.ysize = BitVec.ofNat 16 c.width := c.ok.2.2.2.2.2.2.2.2.1
theorem Config.bandFields_xpos : c.bandFields.Pairwise fun a b => a.xpos.toNat < b.xpos.toNat := c.ok.2.2.2.2.2.2.2.2.2

/-- Eight columns to a byte, with nothing left over (20_memory.md R72). -/
theorem Config.rowBytes_mul : c.rowBytes * 8 = c.width := by
  have := c.width_mod
  unfold Config.rowBytes; omega

theorem Config.rowBytes_pos : 1 ≤ c.rowBytes := by
  have := c.rowBytes_mul; have := c.width_ge; omega

theorem Config.pixels_eq : c.pixels = 8 * c.bmpBytes := by
  unfold Config.pixels Config.bmpBytes
  rw [← c.rowBytes_mul]; ring

theorem Config.bmpBytes_le : c.bmpBytes ≤ c.pixels := by rw [c.pixels_eq]; omega

theorem Config.bands_pos : 1 ≤ c.bands := by
  have h := c.height_pos; have hb := c.bandRows_pos
  unfold Config.bands ceilDiv
  exact (Nat.le_div_iff_mul_le hb).mpr (by omega)

/-- Band `k` exists exactly when its first row is a row of the bitmap (42_streamer.md R191, R192). -/
theorem Config.lt_bands_iff (k : Nat) : k < c.bands ↔ k * c.bandRows < c.height := by
  have hb := c.bandRows_pos
  unfold Config.bands ceilDiv
  rw [Nat.lt_iff_add_one_le, Nat.le_div_iff_mul_le hb, Nat.add_mul]
  omega

/-- A pixel of the frame has an index below PIXELS (20_memory.md R74). -/
theorem Config.pixel_lt {r x : Nat} (hr : r < c.height) (hx : x < c.width) : r * c.width + x < c.pixels := by
  have h : (r + 1) * c.width ≤ c.height * c.width := Nat.mul_le_mul_right _ hr
  rw [Nat.add_mul] at h
  unfold Config.pixels
  rw [Nat.mul_comm c.width]; omega

/-- The bitmap byte of a pixel has an address below BMP_BYTES (20_memory.md R72). -/
theorem Config.bitmap_lt {r x : Nat} (hr : r < c.height) (hx : x < c.width) : r * c.rowBytes + x / 8 < c.bmpBytes := by
  have h : (r + 1) * c.rowBytes ≤ c.height * c.rowBytes := Nat.mul_le_mul_right _ hr
  have hw := c.rowBytes_mul
  rw [Nat.add_mul] at h
  unfold Config.bmpBytes
  rw [Nat.mul_comm c.rowBytes]; omega

@[simp] theorem enc16_length (be : Bool) (v : Half) : (enc16 be v).length = 2 := by cases be <;> rfl

/-- Five fields of two bytes (30_encoding.md R101). -/
@[simp] theorem encodeHeader_length (be : Bool) (cmd : Half) (f : HeaderFields) :
    (encodeHeader be cmd f).length = 10 := by simp [encodeHeader]

namespace Machine

/-- What `build` answers (41_framer.md R160, R161). -/
theorem build_eq_some (m : Command) (h : headerSize + m.payload.length ≤ c.maxPacketSize) :
    build c m = some (encodeHeader c.hdrBigEndian m.cmd m.fields ++ m.payload) := by
  simp [build, Config.fits, h]

theorem build_eq_none (m : Command) (h : c.maxPacketSize < headerSize + m.payload.length) : build c m = none := by
  simp [build, Config.fits, h]

/-- A built packet is a header and the payload, and never too long (41_framer.md R161). -/
theorem build_length {m : Command} {bytes : List Byte} (h : build c m = some bytes) :
    bytes.length = 10 + m.payload.length ∧ bytes.length ≤ c.maxPacketSize := by
  unfold build Config.fits at h
  split at h
  · rename_i hf
    cases h
    have hf := of_decide_eq_true hf
    simp only [List.length_append, encodeHeader_length]
    exact ⟨by simp, hf⟩
  · cases h

end Machine

end Sys2Proof
end

