-- ==== Sys2Proof/Laws/State.lean ====
section
/-! SUPPORT. What each named update of State does to each field: one lemma per field per update. -/

namespace Sys2Proof.Machine

variable (s : State)

/-! ### writeFb -/

@[simp] theorem State.writeFb_cfg (a : Nat) (v : Byte) : (s.writeFb a v).cfg = s.cfg := rfl
@[simp] theorem State.writeFb_fb (a : Nat) (v : Byte) : (s.writeFb a v).fb = Memory.put s.fb a v := rfl
@[simp] theorem State.writeFb_fbEpoch (a : Nat) (v : Byte) : (s.writeFb a v).fbEpoch = s.fbEpoch := rfl
@[simp] theorem State.writeFb_acc (a : Nat) (v : Byte) : (s.writeFb a v).acc = s.acc := rfl
@[simp] theorem State.writeFb_accEpoch (a : Nat) (v : Byte) : (s.writeFb a v).accEpoch = s.accEpoch := rfl
@[simp] theorem State.writeFb_fbLen (a : Nat) (v : Byte) : (s.writeFb a v).fbLen = s.fbLen := rfl
@[simp] theorem State.writeFb_xpos (a : Nat) (v : Byte) : (s.writeFb a v).xpos = s.xpos := rfl
@[simp] theorem State.writeFb_ypos (a : Nat) (v : Byte) : (s.writeFb a v).ypos = s.ypos := rfl
@[simp] theorem State.writeFb_xsize (a : Nat) (v : Byte) : (s.writeFb a v).xsize = s.xsize := rfl
@[simp] theorem State.writeFb_ysize (a : Nat) (v : Byte) : (s.writeFb a v).ysize = s.ysize := rfl
@[simp] theorem State.writeFb_paddr (a : Nat) (v : Byte) : (s.writeFb a v).paddr = s.paddr := rfl
@[simp] theorem State.writeFb_plen (a : Nat) (v : Byte) : (s.writeFb a v).plen = s.plen := rfl
@[simp] theorem State.writeFb_bright (a : Nat) (v : Byte) : (s.writeFb a v).bright = s.bright := rfl
@[simp] theorem State.writeFb_parts (a : Nat) (v : Byte) : (s.writeFb a v).parts = s.parts := rfl
@[simp] theorem State.writeFb_busy (a : Nat) (v : Byte) : (s.writeFb a v).busy = s.busy := rfl
@[simp] theorem State.writeFb_halt (a : Nat) (v : Byte) : (s.writeFb a v).halt = s.halt := rfl
@[simp] theorem State.writeFb_errDim (a : Nat) (v : Byte) : (s.writeFb a v).errDim = s.errDim := rfl
@[simp] theorem State.writeFb_errPkt (a : Nat) (v : Byte) : (s.writeFb a v).errPkt = s.errPkt := rfl
@[simp] theorem State.writeFb_errSend (a : Nat) (v : Byte) : (s.writeFb a v).errSend = s.errSend := rfl
@[simp] theorem State.writeFb_phase (a : Nat) (v : Byte) : (s.writeFb a v).phase = s.phase := rfl
@[simp] theorem State.writeFb_row (a : Nat) (v : Byte) : (s.writeFb a v).row = s.row := rfl
@[simp] theorem State.writeFb_col (a : Nat) (v : Byte) : (s.writeFb a v).col = s.col := rfl
@[simp] theorem State.writeFb_stage (a : Nat) (v : Byte) : (s.writeFb a v).stage = s.stage := rfl
@[simp] theorem State.writeFb_k (a : Nat) (v : Byte) : (s.writeFb a v).k = s.k := rfl
@[simp] theorem State.writeFb_job (a : Nat) (v : Byte) : (s.writeFb a v).job = s.job := rfl
@[simp] theorem State.writeFb_txbuf (a : Nat) (v : Byte) : (s.writeFb a v).txbuf = s.txbuf := rfl
@[simp] theorem State.writeFb_txlen (a : Nat) (v : Byte) : (s.writeFb a v).txlen = s.txlen := rfl
@[simp] theorem State.writeFb_txEpoch (a : Nat) (v : Byte) : (s.writeFb a v).txEpoch = s.txEpoch := rfl
@[simp] theorem State.writeFb_timer (a : Nat) (v : Byte) : (s.writeFb a v).timer = s.timer := rfl
@[simp] theorem State.writeFb_out (a : Nat) (v : Byte) : (s.writeFb a v).out = s.out := rfl
@[simp] theorem State.writeFb_rdata (a : Nat) (v : Byte) : (s.writeFb a v).rdata = s.rdata := rfl
@[simp] theorem State.writeFb_sink (a : Nat) (v : Byte) : (s.writeFb a v).sink = s.sink := rfl
@[simp] theorem State.writeFb_host (a : Nat) (v : Byte) : (s.writeFb a v).host = s.host := rfl
@[simp] theorem State.writeFb_window (a : Nat) (v : Byte) : (s.writeFb a v).window = s.window := rfl
@[simp] theorem State.writeFb_dutiful (a : Nat) (v : Byte) : (s.writeFb a v).dutiful = s.dutiful := rfl

/-! ### writeAcc -/

@[simp] theorem State.writeAcc_cfg (i : Nat) (v : Int) : (s.writeAcc i v).cfg = s.cfg := rfl
@[simp] theorem State.writeAcc_fb (i : Nat) (v : Int) : (s.writeAcc i v).fb = s.fb := rfl
@[simp] theorem State.writeAcc_fbEpoch (i : Nat) (v : Int) : (s.writeAcc i v).fbEpoch = s.fbEpoch := rfl
@[simp] theorem State.writeAcc_acc (i : Nat) (v : Int) :
    (s.writeAcc i v).acc = Memory.put s.acc i (BitVec.ofInt 16 v) := rfl
@[simp] theorem State.writeAcc_accEpoch (i : Nat) (v : Int) : (s.writeAcc i v).accEpoch = s.accEpoch := rfl
@[simp] theorem State.writeAcc_fbLen (i : Nat) (v : Int) : (s.writeAcc i v).fbLen = s.fbLen := rfl
@[simp] theorem State.writeAcc_xpos (i : Nat) (v : Int) : (s.writeAcc i v).xpos = s.xpos := rfl
@[simp] theorem State.writeAcc_ypos (i : Nat) (v : Int) : (s.writeAcc i v).ypos = s.ypos := rfl
@[simp] theorem State.writeAcc_xsize (i : Nat) (v : Int) : (s.writeAcc i v).xsize = s.xsize := rfl
@[simp] theorem State.writeAcc_ysize (i : Nat) (v : Int) : (s.writeAcc i v).ysize = s.ysize := rfl
@[simp] theorem State.writeAcc_paddr (i : Nat) (v : Int) : (s.writeAcc i v).paddr = s.paddr := rfl
@[simp] theorem State.writeAcc_plen (i : Nat) (v : Int) : (s.writeAcc i v).plen = s.plen := rfl
@[simp] theorem State.writeAcc_bright (i : Nat) (v : Int) : (s.writeAcc i v).bright = s.bright := rfl
@[simp] theorem State.writeAcc_parts (i : Nat) (v : Int) : (s.writeAcc i v).parts = s.parts := rfl
@[simp] theorem State.writeAcc_busy (i : Nat) (v : Int) : (s.writeAcc i v).busy = s.busy := rfl
@[simp] theorem State.writeAcc_halt (i : Nat) (v : Int) : (s.writeAcc i v).halt = s.halt := rfl
@[simp] theorem State.writeAcc_errDim (i : Nat) (v : Int) : (s.writeAcc i v).errDim = s.errDim := rfl
@[simp] theorem State.writeAcc_errPkt (i : Nat) (v : Int) : (s.writeAcc i v).errPkt = s.errPkt := rfl
@[simp] theorem State.writeAcc_errSend (i : Nat) (v : Int) : (s.writeAcc i v).errSend = s.errSend := rfl
@[simp] theorem State.writeAcc_phase (i : Nat) (v : Int) : (s.writeAcc i v).phase = s.phase := rfl
@[simp] theorem State.writeAcc_row (i : Nat) (v : Int) : (s.writeAcc i v).row = s.row := rfl
@[simp] theorem State.writeAcc_col (i : Nat) (v : Int) : (s.writeAcc i v).col = s.col := rfl
@[simp] theorem State.writeAcc_stage (i : Nat) (v : Int) : (s.writeAcc i v).stage = s.stage := rfl
@[simp] theorem State.writeAcc_k (i : Nat) (v : Int) : (s.writeAcc i v).k = s.k := rfl
@[simp] theorem State.writeAcc_job (i : Nat) (v : Int) : (s.writeAcc i v).job = s.job := rfl
@[simp] theorem State.writeAcc_txbuf (i : Nat) (v : Int) : (s.writeAcc i v).txbuf = s.txbuf := rfl
@[simp] theorem State.writeAcc_txlen (i : Nat) (v : Int) : (s.writeAcc i v).txlen = s.txlen := rfl
@[simp] theorem State.writeAcc_txEpoch (i : Nat) (v : Int) : (s.writeAcc i v).txEpoch = s.txEpoch := rfl
@[simp] theorem State.writeAcc_timer (i : Nat) (v : Int) : (s.writeAcc i v).timer = s.timer := rfl
@[simp] theorem State.writeAcc_out (i : Nat) (v : Int) : (s.writeAcc i v).out = s.out := rfl
@[simp] theorem State.writeAcc_rdata (i : Nat) (v : Int) : (s.writeAcc i v).rdata = s.rdata := rfl
@[simp] theorem State.writeAcc_sink (i : Nat) (v : Int) : (s.writeAcc i v).sink = s.sink := rfl
@[simp] theorem State.writeAcc_host (i : Nat) (v : Int) : (s.writeAcc i v).host = s.host := rfl
@[simp] theorem State.writeAcc_window (i : Nat) (v : Int) : (s.writeAcc i v).window = s.window := rfl
@[simp] theorem State.writeAcc_dutiful (i : Nat) (v : Int) : (s.writeAcc i v).dutiful = s.dutiful := rfl

/-! ### endFramer -/

@[simp] theorem State.endFramer_cfg : s.endFramer.cfg = s.cfg := rfl
@[simp] theorem State.endFramer_fb : s.endFramer.fb = s.fb := rfl
@[simp] theorem State.endFramer_fbEpoch : s.endFramer.fbEpoch = s.fbEpoch := rfl
@[simp] theorem State.endFramer_acc : s.endFramer.acc = s.acc := rfl
@[simp] theorem State.endFramer_accEpoch : s.endFramer.accEpoch = s.accEpoch := rfl
@[simp] theorem State.endFramer_fbLen : s.endFramer.fbLen = s.fbLen := rfl
@[simp] theorem State.endFramer_xpos : s.endFramer.xpos = s.xpos := rfl
@[simp] theorem State.endFramer_ypos : s.endFramer.ypos = s.ypos := rfl
@[simp] theorem State.endFramer_xsize : s.endFramer.xsize = s.xsize := rfl
@[simp] theorem State.endFramer_ysize : s.endFramer.ysize = s.ysize := rfl
@[simp] theorem State.endFramer_paddr : s.endFramer.paddr = s.paddr := rfl
@[simp] theorem State.endFramer_plen : s.endFramer.plen = s.plen := rfl
@[simp] theorem State.endFramer_bright : s.endFramer.bright = s.bright := rfl
@[simp] theorem State.endFramer_parts : s.endFramer.parts = s.parts := rfl
@[simp] theorem State.endFramer_busy : s.endFramer.busy = false := rfl
@[simp] theorem State.endFramer_halt : s.endFramer.halt = s.halt := rfl
@[simp] theorem State.endFramer_errDim : s.endFramer.errDim = s.errDim := rfl
@[simp] theorem State.endFramer_errPkt : s.endFramer.errPkt = s.errPkt := rfl
@[simp] theorem State.endFramer_errSend : s.endFramer.errSend = s.errSend := rfl
@[simp] theorem State.endFramer_phase : s.endFramer.phase = s.phase := rfl
@[simp] theorem State.endFramer_row : s.endFramer.row = s.row := rfl
@[simp] theorem State.endFramer_col : s.endFramer.col = s.col := rfl
@[simp] theorem State.endFramer_stage : s.endFramer.stage = .idle := rfl
@[simp] theorem State.endFramer_k : s.endFramer.k = s.k := rfl
@[simp] theorem State.endFramer_job : s.endFramer.job = none := rfl
@[simp] theorem State.endFramer_txbuf : s.endFramer.txbuf = [] := rfl
@[simp] theorem State.endFramer_txlen : s.endFramer.txlen = txLenUnspecified s.cfg (s.txEpoch + 1) := rfl
@[simp] theorem State.endFramer_txEpoch : s.endFramer.txEpoch = s.txEpoch + 1 := rfl
@[simp] theorem State.endFramer_timer : s.endFramer.timer = s.timer := rfl
@[simp] theorem State.endFramer_out : s.endFramer.out = s.out := rfl
@[simp] theorem State.endFramer_rdata : s.endFramer.rdata = s.rdata := rfl
@[simp] theorem State.endFramer_sink : s.endFramer.sink = s.sink := rfl
@[simp] theorem State.endFramer_host : s.endFramer.host = s.host := rfl
@[simp] theorem State.endFramer_window : s.endFramer.window = s.window := rfl
@[simp] theorem State.endFramer_dutiful : s.endFramer.dutiful = s.dutiful := rfl

/-! ### endDither -/

@[simp] theorem State.endDither_cfg : s.endDither.cfg = s.cfg := rfl
@[simp] theorem State.endDither_fb : s.endDither.fb = Memory.below s.fb s.cfg.bmpBytes := rfl
@[simp] theorem State.endDither_fbEpoch : s.endDither.fbEpoch = s.fbEpoch + 1 := rfl
@[simp] theorem State.endDither_acc : s.endDither.acc = [] := rfl
@[simp] theorem State.endDither_accEpoch : s.endDither.accEpoch = s.accEpoch + 1 := rfl
@[simp] theorem State.endDither_fbLen : s.endDither.fbLen = s.fbLen := rfl
@[simp] theorem State.endDither_xpos : s.endDither.xpos = s.xpos := rfl
@[simp] theorem State.endDither_ypos : s.endDither.ypos = s.ypos := rfl
@[simp] theorem State.endDither_xsize : s.endDither.xsize = s.xsize := rfl
@[simp] theorem State.endDither_ysize : s.endDither.ysize = s.ysize := rfl
@[simp] theorem State.endDither_paddr : s.endDither.paddr = s.paddr := rfl
@[simp] theorem State.endDither_plen : s.endDither.plen = s.plen := rfl
@[simp] theorem State.endDither_bright : s.endDither.bright = s.bright := rfl
@[simp] theorem State.endDither_parts : s.endDither.parts = s.parts := rfl
@[simp] theorem State.endDither_busy : s.endDither.busy = false := rfl
@[simp] theorem State.endDither_halt : s.endDither.halt = s.halt := rfl
@[simp] theorem State.endDither_errDim : s.endDither.errDim = s.errDim := rfl
@[simp] theorem State.endDither_errPkt : s.endDither.errPkt = s.errPkt := rfl
@[simp] theorem State.endDither_errSend : s.endDither.errSend = s.errSend := rfl
@[simp] theorem State.endDither_phase : s.endDither.phase = .idle := rfl
@[simp] theorem State.endDither_row : s.endDither.row = s.row := rfl
@[simp] theorem State.endDither_col : s.endDither.col = s.col := rfl
@[simp] theorem State.endDither_stage : s.endDither.stage = s.stage := rfl
@[simp] theorem State.endDither_k : s.endDither.k = s.k := rfl
@[simp] theorem State.endDither_job : s.endDither.job = none := rfl
@[simp] theorem State.endDither_txbuf : s.endDither.txbuf = s.txbuf := rfl
@[simp] theorem State.endDither_txlen : s.endDither.txlen = s.txlen := rfl
@[simp] theorem State.endDither_txEpoch : s.endDither.txEpoch = s.txEpoch := rfl
@[simp] theorem State.endDither_timer : s.endDither.timer = s.timer := rfl
@[simp] theorem State.endDither_out : s.endDither.out = s.out := rfl
@[simp] theorem State.endDither_rdata : s.endDither.rdata = s.rdata := rfl
@[simp] theorem State.endDither_sink : s.endDither.sink = s.sink := rfl
@[simp] theorem State.endDither_host : s.endDither.host = s.host := rfl
@[simp] theorem State.endDither_window : s.endDither.window = s.window := rfl
@[simp] theorem State.endDither_dutiful : s.endDither.dutiful = s.dutiful := rfl

/-! ### clearErr -/

@[simp] theorem State.clearErr_cfg (value : Nat) : (s.clearErr value).cfg = s.cfg := rfl
@[simp] theorem State.clearErr_fb (value : Nat) : (s.clearErr value).fb = s.fb := rfl
@[simp] theorem State.clearErr_fbEpoch (value : Nat) : (s.clearErr value).fbEpoch = s.fbEpoch := rfl
@[simp] theorem State.clearErr_acc (value : Nat) : (s.clearErr value).acc = s.acc := rfl
@[simp] theorem State.clearErr_accEpoch (value : Nat) : (s.clearErr value).accEpoch = s.accEpoch := rfl
@[simp] theorem State.clearErr_fbLen (value : Nat) : (s.clearErr value).fbLen = s.fbLen := rfl
@[simp] theorem State.clearErr_xpos (value : Nat) : (s.clearErr value).xpos = s.xpos := rfl
@[simp] theorem State.clearErr_ypos (value : Nat) : (s.clearErr value).ypos = s.ypos := rfl
@[simp] theorem State.clearErr_xsize (value : Nat) : (s.clearErr value).xsize = s.xsize := rfl
@[simp] theorem State.clearErr_ysize (value : Nat) : (s.clearErr value).ysize = s.ysize := rfl
@[simp] theorem State.clearErr_paddr (value : Nat) : (s.clearErr value).paddr = s.paddr := rfl
@[simp] theorem State.clearErr_plen (value : Nat) : (s.clearErr value).plen = s.plen := rfl
@[simp] theorem State.clearErr_bright (value : Nat) : (s.clearErr value).bright = s.bright := rfl
@[simp] theorem State.clearErr_parts (value : Nat) : (s.clearErr value).parts = s.parts := rfl
@[simp] theorem State.clearErr_busy (value : Nat) : (s.clearErr value).busy = s.busy := rfl
@[simp] theorem State.clearErr_halt (value : Nat) : (s.clearErr value).halt = s.halt := rfl
@[simp] theorem State.clearErr_errDim (value : Nat) :
    (s.clearErr value).errDim = (s.errDim && !value.testBit 0) := rfl
@[simp] theorem State.clearErr_errPkt (value : Nat) : (s.clearErr value).errPkt = s.errPkt := rfl
@[simp] theorem State.clearErr_errSend (value : Nat) :
    (s.clearErr value).errSend = (s.errSend && !value.testBit 2) := rfl
@[simp] theorem State.clearErr_phase (value : Nat) : (s.clearErr value).phase = s.phase := rfl
@[simp] theorem State.clearErr_row (value : Nat) : (s.clearErr value).row = s.row := rfl
@[simp] theorem State.clearErr_col (value : Nat) : (s.clearErr value).col = s.col := rfl
@[simp] theorem State.clearErr_stage (value : Nat) : (s.clearErr value).stage = s.stage := rfl
@[simp] theorem State.clearErr_k (value : Nat) : (s.clearErr value).k = s.k := rfl
@[simp] theorem State.clearErr_job (value : Nat) : (s.clearErr value).job = s.job := rfl
@[simp] theorem State.clearErr_txbuf (value : Nat) : (s.clearErr value).txbuf = s.txbuf := rfl
@[simp] theorem State.clearErr_txlen (value : Nat) : (s.clearErr value).txlen = s.txlen := rfl
@[simp] theorem State.clearErr_txEpoch (value : Nat) : (s.clearErr value).txEpoch = s.txEpoch := rfl
@[simp] theorem State.clearErr_timer (value : Nat) : (s.clearErr value).timer = s.timer := rfl
@[simp] theorem State.clearErr_out (value : Nat) : (s.clearErr value).out = s.out := rfl
@[simp] theorem State.clearErr_rdata (value : Nat) : (s.clearErr value).rdata = s.rdata := rfl
@[simp] theorem State.clearErr_sink (value : Nat) : (s.clearErr value).sink = s.sink := rfl
@[simp] theorem State.clearErr_host (value : Nat) : (s.clearErr value).host = s.host := rfl
@[simp] theorem State.clearErr_window (value : Nat) : (s.clearErr value).window = s.window := rfl
@[simp] theorem State.clearErr_dutiful (value : Nat) : (s.clearErr value).dutiful = s.dutiful := rfl

/-! ### noteAnswer -/

@[simp] theorem State.noteAnswer_cfg (a : Answer) : (s.noteAnswer a).cfg = s.cfg := by cases a <;> rfl
@[simp] theorem State.noteAnswer_fb (a : Answer) : (s.noteAnswer a).fb = s.fb := by cases a <;> rfl
@[simp] theorem State.noteAnswer_fbEpoch (a : Answer) : (s.noteAnswer a).fbEpoch = s.fbEpoch := by cases a <;> rfl
@[simp] theorem State.noteAnswer_acc (a : Answer) : (s.noteAnswer a).acc = s.acc := by cases a <;> rfl
@[simp] theorem State.noteAnswer_accEpoch (a : Answer) : (s.noteAnswer a).accEpoch = s.accEpoch := by cases a <;> rfl
@[simp] theorem State.noteAnswer_fbLen (a : Answer) : (s.noteAnswer a).fbLen = s.fbLen := by cases a <;> rfl
@[simp] theorem State.noteAnswer_xpos (a : Answer) : (s.noteAnswer a).xpos = s.xpos := by cases a <;> rfl
@[simp] theorem State.noteAnswer_ypos (a : Answer) : (s.noteAnswer a).ypos = s.ypos := by cases a <;> rfl
@[simp] theorem State.noteAnswer_xsize (a : Answer) : (s.noteAnswer a).xsize = s.xsize := by cases a <;> rfl
@[simp] theorem State.noteAnswer_ysize (a : Answer) : (s.noteAnswer a).ysize = s.ysize := by cases a <;> rfl
@[simp] theorem State.noteAnswer_paddr (a : Answer) : (s.noteAnswer a).paddr = s.paddr := by cases a <;> rfl
@[simp] theorem State.noteAnswer_plen (a : Answer) : (s.noteAnswer a).plen = s.plen := by cases a <;> rfl
@[simp] theorem State.noteAnswer_bright (a : Answer) : (s.noteAnswer a).bright = s.bright := by cases a <;> rfl
@[simp] theorem State.noteAnswer_parts (a : Answer) : (s.noteAnswer a).parts = s.parts := by cases a <;> rfl
@[simp] theorem State.noteAnswer_busy (a : Answer) : (s.noteAnswer a).busy = s.busy := by cases a <;> rfl
@[simp] theorem State.noteAnswer_halt (a : Answer) : (s.noteAnswer a).halt = s.halt := by cases a <;> rfl
@[simp] theorem State.noteAnswer_errDim (a : Answer) : (s.noteAnswer a).errDim = s.errDim := by cases a <;> rfl
@[simp] theorem State.noteAnswer_errPkt (a : Answer) : (s.noteAnswer a).errPkt = s.errPkt := by cases a <;> rfl
@[simp] theorem State.noteAnswer_errSend (a : Answer) :
    (s.noteAnswer a).errSend = (s.errSend || decide (a = .err)) := by cases a <;> simp [State.noteAnswer]
@[simp] theorem State.noteAnswer_phase (a : Answer) : (s.noteAnswer a).phase = s.phase := by cases a <;> rfl
@[simp] theorem State.noteAnswer_row (a : Answer) : (s.noteAnswer a).row = s.row := by cases a <;> rfl
@[simp] theorem State.noteAnswer_col (a : Answer) : (s.noteAnswer a).col = s.col := by cases a <;> rfl
@[simp] theorem State.noteAnswer_stage (a : Answer) : (s.noteAnswer a).stage = s.stage := by cases a <;> rfl
@[simp] theorem State.noteAnswer_k (a : Answer) : (s.noteAnswer a).k = s.k := by cases a <;> rfl
@[simp] theorem State.noteAnswer_job (a : Answer) : (s.noteAnswer a).job = s.job := by cases a <;> rfl
@[simp] theorem State.noteAnswer_txbuf (a : Answer) : (s.noteAnswer a).txbuf = s.txbuf := by cases a <;> rfl
@[simp] theorem State.noteAnswer_txlen (a : Answer) : (s.noteAnswer a).txlen = s.txlen := by cases a <;> rfl
@[simp] theorem State.noteAnswer_txEpoch (a : Answer) : (s.noteAnswer a).txEpoch = s.txEpoch := by cases a <;> rfl
@[simp] theorem State.noteAnswer_timer (a : Answer) : (s.noteAnswer a).timer = s.timer := by cases a <;> rfl
@[simp] theorem State.noteAnswer_out (a : Answer) : (s.noteAnswer a).out = s.out := by cases a <;> rfl
@[simp] theorem State.noteAnswer_rdata (a : Answer) : (s.noteAnswer a).rdata = s.rdata := by cases a <;> rfl
@[simp] theorem State.noteAnswer_sink (a : Answer) : (s.noteAnswer a).sink = s.sink := by cases a <;> rfl
@[simp] theorem State.noteAnswer_host (a : Answer) : (s.noteAnswer a).host = s.host := by cases a <;> rfl
@[simp] theorem State.noteAnswer_window (a : Answer) : (s.noteAnswer a).window = s.window := by cases a <;> rfl
@[simp] theorem State.noteAnswer_dutiful (a : Answer) : (s.noteAnswer a).dutiful = s.dutiful := by cases a <;> rfl

/-! ### loadTx -/

@[simp] theorem State.loadTx_cfg (bytes : List Byte) : (s.loadTx bytes).cfg = s.cfg := rfl
@[simp] theorem State.loadTx_fb (bytes : List Byte) : (s.loadTx bytes).fb = s.fb := rfl
@[simp] theorem State.loadTx_fbEpoch (bytes : List Byte) : (s.loadTx bytes).fbEpoch = s.fbEpoch := rfl
@[simp] theorem State.loadTx_acc (bytes : List Byte) : (s.loadTx bytes).acc = s.acc := rfl
@[simp] theorem State.loadTx_accEpoch (bytes : List Byte) : (s.loadTx bytes).accEpoch = s.accEpoch := rfl
@[simp] theorem State.loadTx_fbLen (bytes : List Byte) : (s.loadTx bytes).fbLen = s.fbLen := rfl
@[simp] theorem State.loadTx_xpos (bytes : List Byte) : (s.loadTx bytes).xpos = s.xpos := rfl
@[simp] theorem State.loadTx_ypos (bytes : List Byte) : (s.loadTx bytes).ypos = s.ypos := rfl
@[simp] theorem State.loadTx_xsize (bytes : List Byte) : (s.loadTx bytes).xsize = s.xsize := rfl
@[simp] theorem State.loadTx_ysize (bytes : List Byte) : (s.loadTx bytes).ysize = s.ysize := rfl
@[simp] theorem State.loadTx_paddr (bytes : List Byte) : (s.loadTx bytes).paddr = s.paddr := rfl
@[simp] theorem State.loadTx_plen (bytes : List Byte) : (s.loadTx bytes).plen = s.plen := rfl
@[simp] theorem State.loadTx_bright (bytes : List Byte) : (s.loadTx bytes).bright = s.bright := rfl
@[simp] theorem State.loadTx_parts (bytes : List Byte) : (s.loadTx bytes).parts = s.parts := rfl
@[simp] theorem State.loadTx_busy (bytes : List Byte) : (s.loadTx bytes).busy = s.busy := rfl
@[simp] theorem State.loadTx_halt (bytes : List Byte) : (s.loadTx bytes).halt = s.halt := rfl
@[simp] theorem State.loadTx_errDim (bytes : List Byte) : (s.loadTx bytes).errDim = s.errDim := rfl
@[simp] theorem State.loadTx_errPkt (bytes : List Byte) : (s.loadTx bytes).errPkt = s.errPkt := rfl
@[simp] theorem State.loadTx_errSend (bytes : List Byte) : (s.loadTx bytes).errSend = s.errSend := rfl
@[simp] theorem State.loadTx_phase (bytes : List Byte) : (s.loadTx bytes).phase = s.phase := rfl
@[simp] theorem State.loadTx_row (bytes : List Byte) : (s.loadTx bytes).row = s.row := rfl
@[simp] theorem State.loadTx_col (bytes : List Byte) : (s.loadTx bytes).col = s.col := rfl
@[simp] theorem State.loadTx_stage (bytes : List Byte) : (s.loadTx bytes).stage = .handOver := rfl
@[simp] theorem State.loadTx_k (bytes : List Byte) : (s.loadTx bytes).k = s.k := rfl
@[simp] theorem State.loadTx_job (bytes : List Byte) : (s.loadTx bytes).job = s.job := rfl
@[simp] theorem State.loadTx_txbuf (bytes : List Byte) : (s.loadTx bytes).txbuf = bytes := rfl
@[simp] theorem State.loadTx_txlen (bytes : List Byte) : (s.loadTx bytes).txlen = bytes.length := rfl
@[simp] theorem State.loadTx_txEpoch (bytes : List Byte) : (s.loadTx bytes).txEpoch = s.txEpoch := rfl
@[simp] theorem State.loadTx_timer (bytes : List Byte) : (s.loadTx bytes).timer = s.timer := rfl
@[simp] theorem State.loadTx_out (bytes : List Byte) : (s.loadTx bytes).out = s.out := rfl
@[simp] theorem State.loadTx_rdata (bytes : List Byte) : (s.loadTx bytes).rdata = s.rdata := rfl
@[simp] theorem State.loadTx_sink (bytes : List Byte) : (s.loadTx bytes).sink = s.sink := rfl
@[simp] theorem State.loadTx_host (bytes : List Byte) : (s.loadTx bytes).host = s.host := rfl
@[simp] theorem State.loadTx_window (bytes : List Byte) : (s.loadTx bytes).window = s.window := rfl
@[simp] theorem State.loadTx_dutiful (bytes : List Byte) : (s.loadTx bytes).dutiful = s.dutiful := rfl

/-! ### handOver -/

@[simp] theorem State.handOver_cfg : s.handOver.cfg = s.cfg := rfl
@[simp] theorem State.handOver_fb : s.handOver.fb = s.fb := rfl
@[simp] theorem State.handOver_fbEpoch : s.handOver.fbEpoch = s.fbEpoch := rfl
@[simp] theorem State.handOver_acc : s.handOver.acc = s.acc := rfl
@[simp] theorem State.handOver_accEpoch : s.handOver.accEpoch = s.accEpoch := rfl
@[simp] theorem State.handOver_fbLen : s.handOver.fbLen = s.fbLen := rfl
@[simp] theorem State.handOver_xpos : s.handOver.xpos = s.xpos := rfl
@[simp] theorem State.handOver_ypos : s.handOver.ypos = s.ypos := rfl
@[simp] theorem State.handOver_xsize : s.handOver.xsize = s.xsize := rfl
@[simp] theorem State.handOver_ysize : s.handOver.ysize = s.ysize := rfl
@[simp] theorem State.handOver_paddr : s.handOver.paddr = s.paddr := rfl
@[simp] theorem State.handOver_plen : s.handOver.plen = s.plen := rfl
@[simp] theorem State.handOver_bright : s.handOver.bright = s.bright := rfl
@[simp] theorem State.handOver_parts : s.handOver.parts = s.parts := rfl
@[simp] theorem State.handOver_busy : s.handOver.busy = s.busy := rfl
@[simp] theorem State.handOver_halt : s.handOver.halt = s.halt := rfl
@[simp] theorem State.handOver_errDim : s.handOver.errDim = s.errDim := rfl
@[simp] theorem State.handOver_errPkt : s.handOver.errPkt = s.errPkt := rfl
@[simp] theorem State.handOver_errSend : s.handOver.errSend = s.errSend := rfl
@[simp] theorem State.handOver_phase : s.handOver.phase = s.phase := rfl
@[simp] theorem State.handOver_row : s.handOver.row = s.row := rfl
@[simp] theorem State.handOver_col : s.handOver.col = s.col := rfl
@[simp] theorem State.handOver_stage : s.handOver.stage = .await := rfl
@[simp] theorem State.handOver_k : s.handOver.k = s.k := rfl
@[simp] theorem State.handOver_job : s.handOver.job = s.job := rfl
@[simp] theorem State.handOver_txbuf : s.handOver.txbuf = s.txbuf := rfl
@[simp] theorem State.handOver_txlen : s.handOver.txlen = s.txlen := rfl
@[simp] theorem State.handOver_txEpoch : s.handOver.txEpoch = s.txEpoch := rfl
@[simp] theorem State.handOver_timer : s.handOver.timer = s.timer := rfl
@[simp] theorem State.handOver_out : s.handOver.out = s.out ++ [⟨s.txbuf.take s.txlen, none⟩] := rfl
@[simp] theorem State.handOver_rdata : s.handOver.rdata = s.rdata := rfl
@[simp] theorem State.handOver_sink : s.handOver.sink = s.sink := rfl
@[simp] theorem State.handOver_host : s.handOver.host = s.host := rfl
@[simp] theorem State.handOver_window : s.handOver.window = s.window := rfl
@[simp] theorem State.handOver_dutiful : s.handOver.dutiful = s.dutiful := rfl

/-! ### startPace -/

@[simp] theorem State.startPace_cfg : s.startPace.cfg = s.cfg := rfl
@[simp] theorem State.startPace_fb : s.startPace.fb = s.fb := rfl
@[simp] theorem State.startPace_fbEpoch : s.startPace.fbEpoch = s.fbEpoch := rfl
@[simp] theorem State.startPace_acc : s.startPace.acc = s.acc := rfl
@[simp] theorem State.startPace_accEpoch : s.startPace.accEpoch = s.accEpoch := rfl
@[simp] theorem State.startPace_fbLen : s.startPace.fbLen = s.fbLen := rfl
@[simp] theorem State.startPace_xpos : s.startPace.xpos = s.xpos := rfl
@[simp] theorem State.startPace_ypos : s.startPace.ypos = s.ypos := rfl
@[simp] theorem State.startPace_xsize : s.startPace.xsize = s.xsize := rfl
@[simp] theorem State.startPace_ysize : s.startPace.ysize = s.ysize := rfl
@[simp] theorem State.startPace_paddr : s.startPace.paddr = s.paddr := rfl
@[simp] theorem State.startPace_plen : s.startPace.plen = s.plen := rfl
@[simp] theorem State.startPace_bright : s.startPace.bright = s.bright := rfl
@[simp] theorem State.startPace_parts : s.startPace.parts = s.parts := rfl
@[simp] theorem State.startPace_busy : s.startPace.busy = s.busy := rfl
@[simp] theorem State.startPace_halt : s.startPace.halt = s.halt := rfl
@[simp] theorem State.startPace_errDim : s.startPace.errDim = s.errDim := rfl
@[simp] theorem State.startPace_errPkt : s.startPace.errPkt = s.errPkt := rfl
@[simp] theorem State.startPace_errSend : s.startPace.errSend = s.errSend := rfl
@[simp] theorem State.startPace_phase : s.startPace.phase = s.phase := rfl
@[simp] theorem State.startPace_row : s.startPace.row = s.row := rfl
@[simp] theorem State.startPace_col : s.startPace.col = s.col := rfl
@[simp] theorem State.startPace_stage : s.startPace.stage = .pace := rfl
@[simp] theorem State.startPace_k : s.startPace.k = s.k := rfl
@[simp] theorem State.startPace_job : s.startPace.job = s.job := rfl
@[simp] theorem State.startPace_txbuf : s.startPace.txbuf = s.txbuf := rfl
@[simp] theorem State.startPace_txlen : s.startPace.txlen = s.txlen := rfl
@[simp] theorem State.startPace_txEpoch : s.startPace.txEpoch = s.txEpoch := rfl
@[simp] theorem State.startPace_timer : s.startPace.timer = s.cfg.paceDelay := rfl
@[simp] theorem State.startPace_out : s.startPace.out = s.out := rfl
@[simp] theorem State.startPace_rdata : s.startPace.rdata = s.rdata := rfl
@[simp] theorem State.startPace_sink : s.startPace.sink = s.sink := rfl
@[simp] theorem State.startPace_host : s.startPace.host = s.host := rfl
@[simp] theorem State.startPace_window : s.startPace.window = s.window := rfl
@[simp] theorem State.startPace_dutiful : s.startPace.dutiful = s.dutiful := rfl

/-! ### takeAnswer -/

@[simp] theorem State.takeAnswer_cfg (a : Answer) (rest : List Answer) :
    (s.takeAnswer a rest).cfg = s.cfg := by cases a <;> rfl
@[simp] theorem State.takeAnswer_fb (a : Answer) (rest : List Answer) :
    (s.takeAnswer a rest).fb = s.fb := by cases a <;> rfl
@[simp] theorem State.takeAnswer_fbEpoch (a : Answer) (rest : List Answer) :
    (s.takeAnswer a rest).fbEpoch = s.fbEpoch := by cases a <;> rfl
@[simp] theorem State.takeAnswer_acc (a : Answer) (rest : List Answer) :
    (s.takeAnswer a rest).acc = s.acc := by cases a <;> rfl
@[simp] theorem State.takeAnswer_accEpoch (a : Answer) (rest : List Answer) :
    (s.takeAnswer a rest).accEpoch = s.accEpoch := by cases a <;> rfl
@[simp] theorem State.takeAnswer_fbLen (a : Answer) (rest : List Answer) :
    (s.takeAnswer a rest).fbLen = s.fbLen := by cases a <;> rfl
@[simp] theorem State.takeAnswer_xpos (a : Answer) (rest : List Answer) :
    (s.takeAnswer a rest).xpos = s.xpos := by cases a <;> rfl
@[simp] theorem State.takeAnswer_ypos (a : Answer) (rest : List Answer) :
    (s.takeAnswer a rest).ypos = s.ypos := by cases a <;> rfl
@[simp] theorem State.takeAnswer_xsize (a : Answer) (rest : List Answer) :
    (s.takeAnswer a rest).xsize = s.xsize := by cases a <;> rfl
@[simp] theorem State.takeAnswer_ysize (a : Answer) (rest : List Answer) :
    (s.takeAnswer a rest).ysize = s.ysize := by cases a <;> rfl
@[simp] theorem State.takeAnswer_paddr (a : Answer) (rest : List Answer) :
    (s.takeAnswer a rest).paddr = s.paddr := by cases a <;> rfl
@[simp] theorem State.takeAnswer_plen (a : Answer) (rest : List Answer) :
    (s.takeAnswer a rest).plen = s.plen := by cases a <;> rfl
@[simp] theorem State.takeAnswer_bright (a : Answer) (rest : List Answer) :
    (s.takeAnswer a rest).bright = s.bright := by cases a <;> rfl
@[simp] theorem State.takeAnswer_parts (a : Answer) (rest : List Answer) :
    (s.takeAnswer a rest).parts = s.parts := by cases a <;> rfl
@[simp] theorem State.takeAnswer_busy (a : Answer) (rest : List Answer) :
    (s.takeAnswer a rest).busy = s.busy := by cases a <;> rfl
@[simp] theorem State.takeAnswer_halt (a : Answer) (rest : List Answer) :
    (s.takeAnswer a rest).halt = s.halt := by cases a <;> rfl
@[simp] theorem State.takeAnswer_errDim (a : Answer) (rest : List Answer) :
    (s.takeAnswer a rest).errDim = s.errDim := by cases a <;> rfl
@[simp] theorem State.takeAnswer_errPkt (a : Answer) (rest : List Answer) :
    (s.takeAnswer a rest).errPkt = s.errPkt := by cases a <;> rfl
@[simp] theorem State.takeAnswer_errSend (a : Answer) (rest : List Answer) :
    (s.takeAnswer a rest).errSend = (s.errSend || decide (a = .err)) := by cases a <;> simp [State.takeAnswer, State.noteAnswer]
@[simp] theorem State.takeAnswer_phase (a : Answer) (rest : List Answer) :
    (s.takeAnswer a rest).phase = s.phase := by cases a <;> rfl
@[simp] theorem State.takeAnswer_row (a : Answer) (rest : List Answer) :
    (s.takeAnswer a rest).row = s.row := by cases a <;> rfl
@[simp] theorem State.takeAnswer_col (a : Answer) (rest : List Answer) :
    (s.takeAnswer a rest).col = s.col := by cases a <;> rfl
@[simp] theorem State.takeAnswer_stage (a : Answer) (rest : List Answer) :
    (s.takeAnswer a rest).stage = s.stage := by cases a <;> rfl
@[simp] theorem State.takeAnswer_k (a : Answer) (rest : List Answer) :
    (s.takeAnswer a rest).k = s.k := by cases a <;> rfl
@[simp] theorem State.takeAnswer_job (a : Answer) (rest : List Answer) :
    (s.takeAnswer a rest).job = s.job := by cases a <;> rfl
@[simp] theorem State.takeAnswer_txbuf (a : Answer) (rest : List Answer) :
    (s.takeAnswer a rest).txbuf = s.txbuf := by cases a <;> rfl
@[simp] theorem State.takeAnswer_txlen (a : Answer) (rest : List Answer) :
    (s.takeAnswer a rest).txlen = s.txlen := by cases a <;> rfl
@[simp] theorem State.takeAnswer_txEpoch (a : Answer) (rest : List Answer) :
    (s.takeAnswer a rest).txEpoch = s.txEpoch := by cases a <;> rfl
@[simp] theorem State.takeAnswer_timer (a : Answer) (rest : List Answer) :
    (s.takeAnswer a rest).timer = s.timer := by cases a <;> rfl
@[simp] theorem State.takeAnswer_out (a : Answer) (rest : List Answer) :
    (s.takeAnswer a rest).out = answerLast a s.out := by cases a <;> rfl
@[simp] theorem State.takeAnswer_rdata (a : Answer) (rest : List Answer) :
    (s.takeAnswer a rest).rdata = s.rdata := by cases a <;> rfl
@[simp] theorem State.takeAnswer_sink (a : Answer) (rest : List Answer) :
    (s.takeAnswer a rest).sink = rest := by cases a <;> rfl
@[simp] theorem State.takeAnswer_host (a : Answer) (rest : List Answer) :
    (s.takeAnswer a rest).host = s.host := by cases a <;> rfl
@[simp] theorem State.takeAnswer_window (a : Answer) (rest : List Answer) :
    (s.takeAnswer a rest).window = s.window := by cases a <;> rfl
@[simp] theorem State.takeAnswer_dutiful (a : Answer) (rest : List Answer) :
    (s.takeAnswer a rest).dutiful = s.dutiful := by cases a <;> rfl

/-! ### engage -/

@[simp] theorem State.engage_cfg (alone : Job) : (s.engage alone).cfg = s.cfg := rfl
@[simp] theorem State.engage_fb (alone : Job) : (s.engage alone).fb = s.fb := rfl
@[simp] theorem State.engage_fbEpoch (alone : Job) : (s.engage alone).fbEpoch = s.fbEpoch := rfl
@[simp] theorem State.engage_acc (alone : Job) : (s.engage alone).acc = s.acc := rfl
@[simp] theorem State.engage_accEpoch (alone : Job) : (s.engage alone).accEpoch = s.accEpoch := rfl
@[simp] theorem State.engage_fbLen (alone : Job) : (s.engage alone).fbLen = s.fbLen := rfl
@[simp] theorem State.engage_xpos (alone : Job) : (s.engage alone).xpos = s.xpos := rfl
@[simp] theorem State.engage_ypos (alone : Job) : (s.engage alone).ypos = s.ypos := rfl
@[simp] theorem State.engage_xsize (alone : Job) : (s.engage alone).xsize = s.xsize := rfl
@[simp] theorem State.engage_ysize (alone : Job) : (s.engage alone).ysize = s.ysize := rfl
@[simp] theorem State.engage_paddr (alone : Job) : (s.engage alone).paddr = s.paddr := rfl
@[simp] theorem State.engage_plen (alone : Job) : (s.engage alone).plen = s.plen := rfl
@[simp] theorem State.engage_bright (alone : Job) : (s.engage alone).bright = s.bright := rfl
@[simp] theorem State.engage_parts (alone : Job) : (s.engage alone).parts = s.parts := rfl
@[simp] theorem State.engage_busy (alone : Job) : (s.engage alone).busy = true := rfl
@[simp] theorem State.engage_halt (alone : Job) : (s.engage alone).halt = s.halt := rfl
@[simp] theorem State.engage_errDim (alone : Job) : (s.engage alone).errDim = s.errDim := rfl
@[simp] theorem State.engage_errPkt (alone : Job) : (s.engage alone).errPkt = s.errPkt := rfl
@[simp] theorem State.engage_errSend (alone : Job) : (s.engage alone).errSend = s.errSend := rfl
@[simp] theorem State.engage_phase (alone : Job) : (s.engage alone).phase = s.phase := rfl
@[simp] theorem State.engage_row (alone : Job) : (s.engage alone).row = s.row := rfl
@[simp] theorem State.engage_col (alone : Job) : (s.engage alone).col = s.col := rfl
@[simp] theorem State.engage_stage (alone : Job) : (s.engage alone).stage = s.stage := rfl
@[simp] theorem State.engage_k (alone : Job) : (s.engage alone).k = s.k := rfl
@[simp] theorem State.engage_job (alone : Job) : (s.engage alone).job = some (s.job.getD alone) := rfl
@[simp] theorem State.engage_txbuf (alone : Job) : (s.engage alone).txbuf = s.txbuf := rfl
@[simp] theorem State.engage_txlen (alone : Job) : (s.engage alone).txlen = s.txlen := rfl
@[simp] theorem State.engage_txEpoch (alone : Job) : (s.engage alone).txEpoch = s.txEpoch := rfl
@[simp] theorem State.engage_timer (alone : Job) : (s.engage alone).timer = s.timer := rfl
@[simp] theorem State.engage_out (alone : Job) : (s.engage alone).out = s.out := rfl
@[simp] theorem State.engage_rdata (alone : Job) : (s.engage alone).rdata = s.rdata := rfl
@[simp] theorem State.engage_sink (alone : Job) : (s.engage alone).sink = s.sink := rfl
@[simp] theorem State.engage_host (alone : Job) : (s.engage alone).host = s.host := rfl
@[simp] theorem State.engage_window (alone : Job) : (s.engage alone).window = s.window := rfl
@[simp] theorem State.engage_dutiful (alone : Job) : (s.engage alone).dutiful = s.dutiful := rfl

/-! ### schedule -/

@[simp] theorem State.schedule_cfg (rest : List HostEvent) (w : Option Nat) : (s.schedule rest w).cfg = s.cfg := rfl
@[simp] theorem State.schedule_fb (rest : List HostEvent) (w : Option Nat) : (s.schedule rest w).fb = s.fb := rfl
@[simp] theorem State.schedule_fbEpoch (rest : List HostEvent) (w : Option Nat) :
    (s.schedule rest w).fbEpoch = s.fbEpoch := rfl
@[simp] theorem State.schedule_acc (rest : List HostEvent) (w : Option Nat) : (s.schedule rest w).acc = s.acc := rfl
@[simp] theorem State.schedule_accEpoch (rest : List HostEvent) (w : Option Nat) :
    (s.schedule rest w).accEpoch = s.accEpoch := rfl
@[simp] theorem State.schedule_fbLen (rest : List HostEvent) (w : Option Nat) :
    (s.schedule rest w).fbLen = s.fbLen := rfl
@[simp] theorem State.schedule_xpos (rest : List HostEvent) (w : Option Nat) :
    (s.schedule rest w).xpos = s.xpos := rfl
@[simp] theorem State.schedule_ypos (rest : List HostEvent) (w : Option Nat) :
    (s.schedule rest w).ypos = s.ypos := rfl
@[simp] theorem State.schedule_xsize (rest : List HostEvent) (w : Option Nat) :
    (s.schedule rest w).xsize = s.xsize := rfl
@[simp] theorem State.schedule_ysize (rest : List HostEvent) (w : Option Nat) :
    (s.schedule rest w).ysize = s.ysize := rfl
@[simp] theorem State.schedule_paddr (rest : List HostEvent) (w : Option Nat) :
    (s.schedule rest w).paddr = s.paddr := rfl
@[simp] theorem State.schedule_plen (rest : List HostEvent) (w : Option Nat) :
    (s.schedule rest w).plen = s.plen := rfl
@[simp] theorem State.schedule_bright (rest : List HostEvent) (w : Option Nat) :
    (s.schedule rest w).bright = s.bright := rfl
@[simp] theorem State.schedule_parts (rest : List HostEvent) (w : Option Nat) :
    (s.schedule rest w).parts = s.parts := rfl
@[simp] theorem State.schedule_busy (rest : List HostEvent) (w : Option Nat) :
    (s.schedule rest w).busy = s.busy := rfl
@[simp] theorem State.schedule_halt (rest : List HostEvent) (w : Option Nat) :
    (s.schedule rest w).halt = s.halt := rfl
@[simp] theorem State.schedule_errDim (rest : List HostEvent) (w : Option Nat) :
    (s.schedule rest w).errDim = s.errDim := rfl
@[simp] theorem State.schedule_errPkt (rest : List HostEvent) (w : Option Nat) :
    (s.schedule rest w).errPkt = s.errPkt := rfl
@[simp] theorem State.schedule_errSend (rest : List HostEvent) (w : Option Nat) :
    (s.schedule rest w).errSend = s.errSend := rfl
@[simp] theorem State.schedule_phase (rest : List HostEvent) (w : Option Nat) :
    (s.schedule rest w).phase = s.phase := rfl
@[simp] theorem State.schedule_row (rest : List HostEvent) (w : Option Nat) : (s.schedule rest w).row = s.row := rfl
@[simp] theorem State.schedule_col (rest : List HostEvent) (w : Option Nat) : (s.schedule rest w).col = s.col := rfl
@[simp] theorem State.schedule_stage (rest : List HostEvent) (w : Option Nat) :
    (s.schedule rest w).stage = s.stage := rfl
@[simp] theorem State.schedule_k (rest : List HostEvent) (w : Option Nat) : (s.schedule rest w).k = s.k := rfl
@[simp] theorem State.schedule_job (rest : List HostEvent) (w : Option Nat) : (s.schedule rest w).job = s.job := rfl
@[simp] theorem State.schedule_txbuf (rest : List HostEvent) (w : Option Nat) :
    (s.schedule rest w).txbuf = s.txbuf := rfl
@[simp] theorem State.schedule_txlen (rest : List HostEvent) (w : Option Nat) :
    (s.schedule rest w).txlen = s.txlen := rfl
@[simp] theorem State.schedule_txEpoch (rest : List HostEvent) (w : Option Nat) :
    (s.schedule rest w).txEpoch = s.txEpoch := rfl
@[simp] theorem State.schedule_timer (rest : List HostEvent) (w : Option Nat) :
    (s.schedule rest w).timer = s.timer := rfl
@[simp] theorem State.schedule_out (rest : List HostEvent) (w : Option Nat) : (s.schedule rest w).out = s.out := rfl
@[simp] theorem State.schedule_rdata (rest : List HostEvent) (w : Option Nat) :
    (s.schedule rest w).rdata = s.rdata := rfl
@[simp] theorem State.schedule_sink (rest : List HostEvent) (w : Option Nat) :
    (s.schedule rest w).sink = s.sink := rfl
@[simp] theorem State.schedule_host (rest : List HostEvent) (w : Option Nat) : (s.schedule rest w).host = rest := rfl
@[simp] theorem State.schedule_window (rest : List HostEvent) (w : Option Nat) : (s.schedule rest w).window = w := rfl
@[simp] theorem State.schedule_dutiful (rest : List HostEvent) (w : Option Nat) :
    (s.schedule rest w).dutiful = s.dutiful := rfl

/-! ### paceStep -/

@[simp] theorem State.paceStep_cfg : s.paceStep.cfg = s.cfg := rfl
@[simp] theorem State.paceStep_fb : s.paceStep.fb = s.fb := rfl
@[simp] theorem State.paceStep_fbEpoch : s.paceStep.fbEpoch = s.fbEpoch := rfl
@[simp] theorem State.paceStep_acc : s.paceStep.acc = s.acc := rfl
@[simp] theorem State.paceStep_accEpoch : s.paceStep.accEpoch = s.accEpoch := rfl
@[simp] theorem State.paceStep_fbLen : s.paceStep.fbLen = s.fbLen := rfl
@[simp] theorem State.paceStep_xpos : s.paceStep.xpos = s.xpos := rfl
@[simp] theorem State.paceStep_ypos : s.paceStep.ypos = s.ypos := rfl
@[simp] theorem State.paceStep_xsize : s.paceStep.xsize = s.xsize := rfl
@[simp] theorem State.paceStep_ysize : s.paceStep.ysize = s.ysize := rfl
@[simp] theorem State.paceStep_paddr : s.paceStep.paddr = s.paddr := rfl
@[simp] theorem State.paceStep_plen : s.paceStep.plen = s.plen := rfl
@[simp] theorem State.paceStep_bright : s.paceStep.bright = s.bright := rfl
@[simp] theorem State.paceStep_parts : s.paceStep.parts = s.parts := rfl
@[simp] theorem State.paceStep_busy : s.paceStep.busy = s.busy := rfl
@[simp] theorem State.paceStep_halt : s.paceStep.halt = s.halt := rfl
@[simp] theorem State.paceStep_errDim : s.paceStep.errDim = s.errDim := rfl
@[simp] theorem State.paceStep_errPkt : s.paceStep.errPkt = s.errPkt := rfl
@[simp] theorem State.paceStep_errSend : s.paceStep.errSend = s.errSend := rfl
@[simp] theorem State.paceStep_phase : s.paceStep.phase = s.phase := rfl
@[simp] theorem State.paceStep_row : s.paceStep.row = s.row := rfl
@[simp] theorem State.paceStep_col : s.paceStep.col = s.col := rfl
@[simp] theorem State.paceStep_stage : s.paceStep.stage = .build := rfl
@[simp] theorem State.paceStep_k : s.paceStep.k = s.k + 1 := rfl
@[simp] theorem State.paceStep_job : s.paceStep.job = s.job := rfl
@[simp] theorem State.paceStep_txbuf : s.paceStep.txbuf = s.txbuf := rfl
@[simp] theorem State.paceStep_txlen : s.paceStep.txlen = s.txlen := rfl
@[simp] theorem State.paceStep_txEpoch : s.paceStep.txEpoch = s.txEpoch := rfl
@[simp] theorem State.paceStep_timer : s.paceStep.timer = 0 := rfl
@[simp] theorem State.paceStep_out : s.paceStep.out = s.out := rfl
@[simp] theorem State.paceStep_rdata : s.paceStep.rdata = s.rdata := rfl
@[simp] theorem State.paceStep_sink : s.paceStep.sink = s.sink := rfl
@[simp] theorem State.paceStep_host : s.paceStep.host = s.host := rfl
@[simp] theorem State.paceStep_window : s.paceStep.window = s.window := rfl
@[simp] theorem State.paceStep_dutiful : s.paceStep.dutiful = s.dutiful := rfl

/-! ### startDither -/

@[simp] theorem State.startDither_cfg : s.startDither.cfg = s.cfg := rfl
@[simp] theorem State.startDither_fb : s.startDither.fb = s.fb := rfl
@[simp] theorem State.startDither_fbEpoch : s.startDither.fbEpoch = s.fbEpoch := rfl
@[simp] theorem State.startDither_acc : s.startDither.acc = s.acc := rfl
@[simp] theorem State.startDither_accEpoch : s.startDither.accEpoch = s.accEpoch := rfl
@[simp] theorem State.startDither_fbLen : s.startDither.fbLen = s.fbLen := rfl
@[simp] theorem State.startDither_xpos : s.startDither.xpos = s.xpos := rfl
@[simp] theorem State.startDither_ypos : s.startDither.ypos = s.ypos := rfl
@[simp] theorem State.startDither_xsize : s.startDither.xsize = s.xsize := rfl
@[simp] theorem State.startDither_ysize : s.startDither.ysize = s.ysize := rfl
@[simp] theorem State.startDither_paddr : s.startDither.paddr = s.paddr := rfl
@[simp] theorem State.startDither_plen : s.startDither.plen = s.plen := rfl
@[simp] theorem State.startDither_bright : s.startDither.bright = s.bright := rfl
@[simp] theorem State.startDither_parts : s.startDither.parts = s.parts := rfl
@[simp] theorem State.startDither_busy : s.startDither.busy = true := rfl
@[simp] theorem State.startDither_halt : s.startDither.halt = s.halt := rfl
@[simp] theorem State.startDither_errDim : s.startDither.errDim = s.errDim := rfl
@[simp] theorem State.startDither_errPkt : s.startDither.errPkt = s.errPkt := rfl
@[simp] theorem State.startDither_errSend : s.startDither.errSend = s.errSend := rfl
@[simp] theorem State.startDither_phase : s.startDither.phase = .load := rfl
@[simp] theorem State.startDither_row : s.startDither.row = s.row := rfl
@[simp] theorem State.startDither_col : s.startDither.col = s.col := rfl
@[simp] theorem State.startDither_stage : s.startDither.stage = s.stage := rfl
@[simp] theorem State.startDither_k : s.startDither.k = s.k := rfl
@[simp] theorem State.startDither_job : s.startDither.job = some .dither := rfl
@[simp] theorem State.startDither_txbuf : s.startDither.txbuf = s.txbuf := rfl
@[simp] theorem State.startDither_txlen : s.startDither.txlen = s.txlen := rfl
@[simp] theorem State.startDither_txEpoch : s.startDither.txEpoch = s.txEpoch := rfl
@[simp] theorem State.startDither_timer : s.startDither.timer = s.timer := rfl
@[simp] theorem State.startDither_out : s.startDither.out = s.out := rfl
@[simp] theorem State.startDither_rdata : s.startDither.rdata = s.rdata := rfl
@[simp] theorem State.startDither_sink : s.startDither.sink = s.sink := rfl
@[simp] theorem State.startDither_host : s.startDither.host = s.host := rfl
@[simp] theorem State.startDither_window : s.startDither.window = s.window := rfl
@[simp] theorem State.startDither_dutiful : s.startDither.dutiful = s.dutiful := rfl

/-! ### startFramer -/

@[simp] theorem State.startFramer_cfg (job : Job) : (s.startFramer job).cfg = s.cfg := rfl
@[simp] theorem State.startFramer_fb (job : Job) : (s.startFramer job).fb = s.fb := rfl
@[simp] theorem State.startFramer_fbEpoch (job : Job) : (s.startFramer job).fbEpoch = s.fbEpoch := rfl
@[simp] theorem State.startFramer_acc (job : Job) : (s.startFramer job).acc = s.acc := rfl
@[simp] theorem State.startFramer_accEpoch (job : Job) : (s.startFramer job).accEpoch = s.accEpoch := rfl
@[simp] theorem State.startFramer_fbLen (job : Job) : (s.startFramer job).fbLen = s.fbLen := rfl
@[simp] theorem State.startFramer_xpos (job : Job) : (s.startFramer job).xpos = s.xpos := rfl
@[simp] theorem State.startFramer_ypos (job : Job) : (s.startFramer job).ypos = s.ypos := rfl
@[simp] theorem State.startFramer_xsize (job : Job) : (s.startFramer job).xsize = s.xsize := rfl
@[simp] theorem State.startFramer_ysize (job : Job) : (s.startFramer job).ysize = s.ysize := rfl
@[simp] theorem State.startFramer_paddr (job : Job) : (s.startFramer job).paddr = s.paddr := rfl
@[simp] theorem State.startFramer_plen (job : Job) : (s.startFramer job).plen = s.plen := rfl
@[simp] theorem State.startFramer_bright (job : Job) : (s.startFramer job).bright = s.bright := rfl
@[simp] theorem State.startFramer_parts (job : Job) : (s.startFramer job).parts = s.parts := rfl
@[simp] theorem State.startFramer_busy (job : Job) : (s.startFramer job).busy = true := rfl
@[simp] theorem State.startFramer_halt (job : Job) : (s.startFramer job).halt = s.halt := rfl
@[simp] theorem State.startFramer_errDim (job : Job) : (s.startFramer job).errDim = s.errDim := rfl
@[simp] theorem State.startFramer_errPkt (job : Job) : (s.startFramer job).errPkt = s.errPkt := rfl
@[simp] theorem State.startFramer_errSend (job : Job) : (s.startFramer job).errSend = s.errSend := rfl
@[simp] theorem State.startFramer_phase (job : Job) : (s.startFramer job).phase = s.phase := rfl
@[simp] theorem State.startFramer_row (job : Job) : (s.startFramer job).row = s.row := rfl
@[simp] theorem State.startFramer_col (job : Job) : (s.startFramer job).col = s.col := rfl
@[simp] theorem State.startFramer_stage (job : Job) : (s.startFramer job).stage = .build := rfl
@[simp] theorem State.startFramer_k (job : Job) : (s.startFramer job).k = 0 := rfl
@[simp] theorem State.startFramer_job (job : Job) : (s.startFramer job).job = some job := rfl
@[simp] theorem State.startFramer_txbuf (job : Job) : (s.startFramer job).txbuf = s.txbuf := rfl
@[simp] theorem State.startFramer_txlen (job : Job) : (s.startFramer job).txlen = s.txlen := rfl
@[simp] theorem State.startFramer_txEpoch (job : Job) : (s.startFramer job).txEpoch = s.txEpoch := rfl
@[simp] theorem State.startFramer_timer (job : Job) : (s.startFramer job).timer = s.timer := rfl
@[simp] theorem State.startFramer_out (job : Job) : (s.startFramer job).out = s.out := rfl
@[simp] theorem State.startFramer_rdata (job : Job) : (s.startFramer job).rdata = s.rdata := rfl
@[simp] theorem State.startFramer_sink (job : Job) : (s.startFramer job).sink = s.sink := rfl
@[simp] theorem State.startFramer_host (job : Job) : (s.startFramer job).host = s.host := rfl
@[simp] theorem State.startFramer_window (job : Job) : (s.startFramer job).window = s.window := rfl
@[simp] theorem State.startFramer_dutiful (job : Job) : (s.startFramer job).dutiful = s.dutiful := rfl

/-! ### loadStep -/

@[simp] theorem State.loadStep_cfg : s.loadStep.cfg = s.cfg := rfl
@[simp] theorem State.loadStep_fb :
    s.loadStep.fb = Memory.fill s.cfg.bmpBytes (fun _ => 0) ++ Memory.above s.fb s.cfg.bmpBytes := rfl
@[simp] theorem State.loadStep_fbEpoch : s.loadStep.fbEpoch = s.fbEpoch := rfl
@[simp] theorem State.loadStep_acc :
    s.loadStep.acc = Memory.fill s.cfg.pixels fun i => (s.readFb i).setWidth 16 := rfl
@[simp] theorem State.loadStep_accEpoch : s.loadStep.accEpoch = s.accEpoch := rfl
@[simp] theorem State.loadStep_fbLen : s.loadStep.fbLen = s.fbLen := rfl
@[simp] theorem State.loadStep_xpos : s.loadStep.xpos = s.xpos := rfl
@[simp] theorem State.loadStep_ypos : s.loadStep.ypos = s.ypos := rfl
@[simp] theorem State.loadStep_xsize : s.loadStep.xsize = s.xsize := rfl
@[simp] theorem State.loadStep_ysize : s.loadStep.ysize = s.ysize := rfl
@[simp] theorem State.loadStep_paddr : s.loadStep.paddr = s.paddr := rfl
@[simp] theorem State.loadStep_plen : s.loadStep.plen = s.plen := rfl
@[simp] theorem State.loadStep_bright : s.loadStep.bright = s.bright := rfl
@[simp] theorem State.loadStep_parts : s.loadStep.parts = s.parts := rfl
@[simp] theorem State.loadStep_busy : s.loadStep.busy = s.busy := rfl
@[simp] theorem State.loadStep_halt : s.loadStep.halt = s.halt := rfl
@[simp] theorem State.loadStep_errDim : s.loadStep.errDim = s.errDim := rfl
@[simp] theorem State.loadStep_errPkt : s.loadStep.errPkt = s.errPkt := rfl
@[simp] theorem State.loadStep_errSend : s.loadStep.errSend = s.errSend := rfl
@[simp] theorem State.loadStep_phase : s.loadStep.phase = .scan := rfl
@[simp] theorem State.loadStep_row : s.loadStep.row = 0 := rfl
@[simp] theorem State.loadStep_col : s.loadStep.col = 0 := rfl
@[simp] theorem State.loadStep_stage : s.loadStep.stage = s.stage := rfl
@[simp] theorem State.loadStep_k : s.loadStep.k = s.k := rfl
@[simp] theorem State.loadStep_job : s.loadStep.job = s.job := rfl
@[simp] theorem State.loadStep_txbuf : s.loadStep.txbuf = s.txbuf := rfl
@[simp] theorem State.loadStep_txlen : s.loadStep.txlen = s.txlen := rfl
@[simp] theorem State.loadStep_txEpoch : s.loadStep.txEpoch = s.txEpoch := rfl
@[simp] theorem State.loadStep_timer : s.loadStep.timer = s.timer := rfl
@[simp] theorem State.loadStep_out : s.loadStep.out = s.out := rfl
@[simp] theorem State.loadStep_rdata : s.loadStep.rdata = s.rdata := rfl
@[simp] theorem State.loadStep_sink : s.loadStep.sink = s.sink := rfl
@[simp] theorem State.loadStep_host : s.loadStep.host = s.host := rfl
@[simp] theorem State.loadStep_window : s.loadStep.window = s.window := rfl
@[simp] theorem State.loadStep_dutiful : s.loadStep.dutiful = s.dutiful := rfl

/-! ### hostRead -/

@[simp] theorem State.hostRead_cfg (index : Nat) : (s.hostRead index).cfg = s.cfg := rfl
@[simp] theorem State.hostRead_fb (index : Nat) : (s.hostRead index).fb = s.fb := rfl
@[simp] theorem State.hostRead_fbEpoch (index : Nat) : (s.hostRead index).fbEpoch = s.fbEpoch := rfl
@[simp] theorem State.hostRead_acc (index : Nat) : (s.hostRead index).acc = s.acc := rfl
@[simp] theorem State.hostRead_accEpoch (index : Nat) : (s.hostRead index).accEpoch = s.accEpoch := rfl
@[simp] theorem State.hostRead_fbLen (index : Nat) : (s.hostRead index).fbLen = s.fbLen := rfl
@[simp] theorem State.hostRead_xpos (index : Nat) : (s.hostRead index).xpos = s.xpos := rfl
@[simp] theorem State.hostRead_ypos (index : Nat) : (s.hostRead index).ypos = s.ypos := rfl
@[simp] theorem State.hostRead_xsize (index : Nat) : (s.hostRead index).xsize = s.xsize := rfl
@[simp] theorem State.hostRead_ysize (index : Nat) : (s.hostRead index).ysize = s.ysize := rfl
@[simp] theorem State.hostRead_paddr (index : Nat) : (s.hostRead index).paddr = s.paddr := rfl
@[simp] theorem State.hostRead_plen (index : Nat) : (s.hostRead index).plen = s.plen := rfl
@[simp] theorem State.hostRead_bright (index : Nat) : (s.hostRead index).bright = s.bright := rfl
@[simp] theorem State.hostRead_parts (index : Nat) : (s.hostRead index).parts = s.parts := rfl
@[simp] theorem State.hostRead_busy (index : Nat) : (s.hostRead index).busy = s.busy := rfl
@[simp] theorem State.hostRead_halt (index : Nat) : (s.hostRead index).halt = s.halt := rfl
@[simp] theorem State.hostRead_errDim (index : Nat) : (s.hostRead index).errDim = s.errDim := rfl
@[simp] theorem State.hostRead_errPkt (index : Nat) : (s.hostRead index).errPkt = s.errPkt := rfl
@[simp] theorem State.hostRead_errSend (index : Nat) : (s.hostRead index).errSend = s.errSend := rfl
@[simp] theorem State.hostRead_phase (index : Nat) : (s.hostRead index).phase = s.phase := rfl
@[simp] theorem State.hostRead_row (index : Nat) : (s.hostRead index).row = s.row := rfl
@[simp] theorem State.hostRead_col (index : Nat) : (s.hostRead index).col = s.col := rfl
@[simp] theorem State.hostRead_stage (index : Nat) : (s.hostRead index).stage = s.stage := rfl
@[simp] theorem State.hostRead_k (index : Nat) : (s.hostRead index).k = s.k := rfl
@[simp] theorem State.hostRead_job (index : Nat) : (s.hostRead index).job = s.job := rfl
@[simp] theorem State.hostRead_txbuf (index : Nat) : (s.hostRead index).txbuf = s.txbuf := rfl
@[simp] theorem State.hostRead_txlen (index : Nat) : (s.hostRead index).txlen = s.txlen := rfl
@[simp] theorem State.hostRead_txEpoch (index : Nat) : (s.hostRead index).txEpoch = s.txEpoch := rfl
@[simp] theorem State.hostRead_timer (index : Nat) : (s.hostRead index).timer = s.timer := rfl
@[simp] theorem State.hostRead_out (index : Nat) : (s.hostRead index).out = s.out := rfl
@[simp] theorem State.hostRead_rdata (index : Nat) : (s.hostRead index).rdata = s.readReg index := rfl
@[simp] theorem State.hostRead_sink (index : Nat) : (s.hostRead index).sink = s.sink := rfl
@[simp] theorem State.hostRead_host (index : Nat) : (s.hostRead index).host = s.host := rfl
@[simp] theorem State.hostRead_window (index : Nat) : (s.hostRead index).window = s.window := rfl
@[simp] theorem State.hostRead_dutiful (index : Nat) : (s.hostRead index).dutiful = s.dutiful := rfl

/-! ### resetInput -/

@[simp] theorem State.resetInput_cfg : s.resetInput.cfg = s.cfg := rfl
@[simp] theorem State.resetInput_fb : s.resetInput.fb = [] := rfl
@[simp] theorem State.resetInput_fbEpoch : s.resetInput.fbEpoch = s.fbEpoch + 1 := rfl
@[simp] theorem State.resetInput_acc : s.resetInput.acc = [] := rfl
@[simp] theorem State.resetInput_accEpoch : s.resetInput.accEpoch = s.accEpoch + 1 := rfl
@[simp] theorem State.resetInput_fbLen : s.resetInput.fbLen = 0 := rfl
@[simp] theorem State.resetInput_xpos : s.resetInput.xpos = 0 := rfl
@[simp] theorem State.resetInput_ypos : s.resetInput.ypos = 0 := rfl
@[simp] theorem State.resetInput_xsize : s.resetInput.xsize = 0 := rfl
@[simp] theorem State.resetInput_ysize : s.resetInput.ysize = 0 := rfl
@[simp] theorem State.resetInput_paddr : s.resetInput.paddr = 0 := rfl
@[simp] theorem State.resetInput_plen : s.resetInput.plen = 0 := rfl
@[simp] theorem State.resetInput_bright : s.resetInput.bright = 0 := rfl
@[simp] theorem State.resetInput_parts : s.resetInput.parts = s.cfg.defaultParts := rfl
@[simp] theorem State.resetInput_busy : s.resetInput.busy = false := rfl
@[simp] theorem State.resetInput_halt : s.resetInput.halt = false := rfl
@[simp] theorem State.resetInput_errDim : s.resetInput.errDim = false := rfl
@[simp] theorem State.resetInput_errPkt : s.resetInput.errPkt = false := rfl
@[simp] theorem State.resetInput_errSend : s.resetInput.errSend = false := rfl
@[simp] theorem State.resetInput_phase : s.resetInput.phase = .idle := rfl
@[simp] theorem State.resetInput_row : s.resetInput.row = 0 := rfl
@[simp] theorem State.resetInput_col : s.resetInput.col = 0 := rfl
@[simp] theorem State.resetInput_stage : s.resetInput.stage = .idle := rfl
@[simp] theorem State.resetInput_k : s.resetInput.k = 0 := rfl
@[simp] theorem State.resetInput_job : s.resetInput.job = none := rfl
@[simp] theorem State.resetInput_txbuf : s.resetInput.txbuf = [] := rfl
@[simp] theorem State.resetInput_txlen : s.resetInput.txlen = txLenUnspecified s.cfg (s.txEpoch + 1) := rfl
@[simp] theorem State.resetInput_txEpoch : s.resetInput.txEpoch = s.txEpoch + 1 := rfl
@[simp] theorem State.resetInput_timer : s.resetInput.timer = 0 := rfl
@[simp] theorem State.resetInput_out : s.resetInput.out = s.out := rfl
@[simp] theorem State.resetInput_rdata : s.resetInput.rdata = s.rdata := rfl
@[simp] theorem State.resetInput_sink : s.resetInput.sink = s.sink := rfl
@[simp] theorem State.resetInput_host : s.resetInput.host = s.host := rfl
@[simp] theorem State.resetInput_window : s.resetInput.window = s.window := rfl
@[simp] theorem State.resetInput_dutiful : s.resetInput.dutiful = s.dutiful := rfl

/-! ### raise .invalidDimensions -/

@[simp] theorem State.raise_invalidDimensions_cfg : (s.raise .invalidDimensions).cfg = s.cfg := rfl
@[simp] theorem State.raise_invalidDimensions_fb : (s.raise .invalidDimensions).fb = s.fb := rfl
@[simp] theorem State.raise_invalidDimensions_fbEpoch : (s.raise .invalidDimensions).fbEpoch = s.fbEpoch := rfl
@[simp] theorem State.raise_invalidDimensions_acc : (s.raise .invalidDimensions).acc = s.acc := rfl
@[simp] theorem State.raise_invalidDimensions_accEpoch : (s.raise .invalidDimensions).accEpoch = s.accEpoch := rfl
@[simp] theorem State.raise_invalidDimensions_fbLen : (s.raise .invalidDimensions).fbLen = s.fbLen := rfl
@[simp] theorem State.raise_invalidDimensions_xpos : (s.raise .invalidDimensions).xpos = s.xpos := rfl
@[simp] theorem State.raise_invalidDimensions_ypos : (s.raise .invalidDimensions).ypos = s.ypos := rfl
@[simp] theorem State.raise_invalidDimensions_xsize : (s.raise .invalidDimensions).xsize = s.xsize := rfl
@[simp] theorem State.raise_invalidDimensions_ysize : (s.raise .invalidDimensions).ysize = s.ysize := rfl
@[simp] theorem State.raise_invalidDimensions_paddr : (s.raise .invalidDimensions).paddr = s.paddr := rfl
@[simp] theorem State.raise_invalidDimensions_plen : (s.raise .invalidDimensions).plen = s.plen := rfl
@[simp] theorem State.raise_invalidDimensions_bright : (s.raise .invalidDimensions).bright = s.bright := rfl
@[simp] theorem State.raise_invalidDimensions_parts : (s.raise .invalidDimensions).parts = s.parts := rfl
@[simp] theorem State.raise_invalidDimensions_busy : (s.raise .invalidDimensions).busy = false := rfl
@[simp] theorem State.raise_invalidDimensions_halt : (s.raise .invalidDimensions).halt = s.halt := rfl
@[simp] theorem State.raise_invalidDimensions_errDim : (s.raise .invalidDimensions).errDim = true := rfl
@[simp] theorem State.raise_invalidDimensions_errPkt : (s.raise .invalidDimensions).errPkt = s.errPkt := rfl
@[simp] theorem State.raise_invalidDimensions_errSend : (s.raise .invalidDimensions).errSend = s.errSend := rfl
@[simp] theorem State.raise_invalidDimensions_phase : (s.raise .invalidDimensions).phase = s.phase := rfl
@[simp] theorem State.raise_invalidDimensions_row : (s.raise .invalidDimensions).row = s.row := rfl
@[simp] theorem State.raise_invalidDimensions_col : (s.raise .invalidDimensions).col = s.col := rfl
@[simp] theorem State.raise_invalidDimensions_stage : (s.raise .invalidDimensions).stage = s.stage := rfl
@[simp] theorem State.raise_invalidDimensions_k : (s.raise .invalidDimensions).k = s.k := rfl
@[simp] theorem State.raise_invalidDimensions_job : (s.raise .invalidDimensions).job = s.job := rfl
@[simp] theorem State.raise_invalidDimensions_txbuf : (s.raise .invalidDimensions).txbuf = s.txbuf := rfl
@[simp] theorem State.raise_invalidDimensions_txlen : (s.raise .invalidDimensions).txlen = s.txlen := rfl
@[simp] theorem State.raise_invalidDimensions_txEpoch : (s.raise .invalidDimensions).txEpoch = s.txEpoch := rfl
@[simp] theorem State.raise_invalidDimensions_timer : (s.raise .invalidDimensions).timer = s.timer := rfl
@[simp] theorem State.raise_invalidDimensions_out : (s.raise .invalidDimensions).out = s.out := rfl
@[simp] theorem State.raise_invalidDimensions_rdata : (s.raise .invalidDimensions).rdata = s.rdata := rfl
@[simp] theorem State.raise_invalidDimensions_sink : (s.raise .invalidDimensions).sink = s.sink := rfl
@[simp] theorem State.raise_invalidDimensions_host : (s.raise .invalidDimensions).host = s.host := rfl
@[simp] theorem State.raise_invalidDimensions_window : (s.raise .invalidDimensions).window = s.window := rfl
@[simp] theorem State.raise_invalidDimensions_dutiful : (s.raise .invalidDimensions).dutiful = s.dutiful := rfl

/-! ### raise .packetTooLarge -/

@[simp] theorem State.raise_packetTooLarge_cfg : (s.raise .packetTooLarge).cfg = s.cfg := rfl
@[simp] theorem State.raise_packetTooLarge_fb : (s.raise .packetTooLarge).fb = s.fb := rfl
@[simp] theorem State.raise_packetTooLarge_fbEpoch : (s.raise .packetTooLarge).fbEpoch = s.fbEpoch := rfl
@[simp] theorem State.raise_packetTooLarge_acc : (s.raise .packetTooLarge).acc = s.acc := rfl
@[simp] theorem State.raise_packetTooLarge_accEpoch : (s.raise .packetTooLarge).accEpoch = s.accEpoch := rfl
@[simp] theorem State.raise_packetTooLarge_fbLen : (s.raise .packetTooLarge).fbLen = s.fbLen := rfl
@[simp] theorem State.raise_packetTooLarge_xpos : (s.raise .packetTooLarge).xpos = s.xpos := rfl
@[simp] theorem State.raise_packetTooLarge_ypos : (s.raise .packetTooLarge).ypos = s.ypos := rfl
@[simp] theorem State.raise_packetTooLarge_xsize : (s.raise .packetTooLarge).xsize = s.xsize := rfl
@[simp] theorem State.raise_packetTooLarge_ysize : (s.raise .packetTooLarge).ysize = s.ysize := rfl
@[simp] theorem State.raise_packetTooLarge_paddr : (s.raise .packetTooLarge).paddr = s.paddr := rfl
@[simp] theorem State.raise_packetTooLarge_plen : (s.raise .packetTooLarge).plen = s.plen := rfl
@[simp] theorem State.raise_packetTooLarge_bright : (s.raise .packetTooLarge).bright = s.bright := rfl
@[simp] theorem State.raise_packetTooLarge_parts : (s.raise .packetTooLarge).parts = s.parts := rfl
@[simp] theorem State.raise_packetTooLarge_busy : (s.raise .packetTooLarge).busy = false := rfl
@[simp] theorem State.raise_packetTooLarge_halt : (s.raise .packetTooLarge).halt = true := rfl
@[simp] theorem State.raise_packetTooLarge_errDim : (s.raise .packetTooLarge).errDim = s.errDim := rfl
@[simp] theorem State.raise_packetTooLarge_errPkt : (s.raise .packetTooLarge).errPkt = true := rfl
@[simp] theorem State.raise_packetTooLarge_errSend : (s.raise .packetTooLarge).errSend = s.errSend := rfl
@[simp] theorem State.raise_packetTooLarge_phase : (s.raise .packetTooLarge).phase = s.phase := rfl
@[simp] theorem State.raise_packetTooLarge_row : (s.raise .packetTooLarge).row = s.row := rfl
@[simp] theorem State.raise_packetTooLarge_col : (s.raise .packetTooLarge).col = s.col := rfl
@[simp] theorem State.raise_packetTooLarge_stage : (s.raise .packetTooLarge).stage = .idle := rfl
@[simp] theorem State.raise_packetTooLarge_k : (s.raise .packetTooLarge).k = s.k := rfl
@[simp] theorem State.raise_packetTooLarge_job : (s.raise .packetTooLarge).job = none := rfl
@[simp] theorem State.raise_packetTooLarge_txbuf : (s.raise .packetTooLarge).txbuf = [] := rfl
@[simp] theorem State.raise_packetTooLarge_txlen : (s.raise .packetTooLarge).txlen = txLenUnspecified s.cfg (s.txEpoch + 1) := rfl
@[simp] theorem State.raise_packetTooLarge_txEpoch : (s.raise .packetTooLarge).txEpoch = s.txEpoch + 1 := rfl
@[simp] theorem State.raise_packetTooLarge_timer : (s.raise .packetTooLarge).timer = s.timer := rfl
@[simp] theorem State.raise_packetTooLarge_out : (s.raise .packetTooLarge).out = s.out := rfl
@[simp] theorem State.raise_packetTooLarge_rdata : (s.raise .packetTooLarge).rdata = s.rdata := rfl
@[simp] theorem State.raise_packetTooLarge_sink : (s.raise .packetTooLarge).sink = s.sink := rfl
@[simp] theorem State.raise_packetTooLarge_host : (s.raise .packetTooLarge).host = s.host := rfl
@[simp] theorem State.raise_packetTooLarge_window : (s.raise .packetTooLarge).window = s.window := rfl
@[simp] theorem State.raise_packetTooLarge_dutiful : (s.raise .packetTooLarge).dutiful = s.dutiful := rfl

end Sys2Proof.Machine
end

