-- ==== Sys2Proof/Laws/Memory.lean ====
section
/-! SUPPORT. The laws of the memories: what a read finds after each operation, and that every operation keeps the canonical
form and the bound on addresses. -/

namespace Sys2Proof.Machine

section
variable {α : Type}

/-! ### What a read finds -/

@[simp] theorem Memory.find_nil (a : Nat) : Memory.find ([] : List (Nat × α)) a = none := rfl

theorem Memory.find_put (m : List (Nat × α)) (a : Nat) (v : α) (b : Nat) :
    Memory.find (Memory.put m a v) b = if a = b then some v else Memory.find m b := by
  induction m with
  | nil => simp [Memory.put, Memory.find]
  | cons e m ih =>
    obtain ⟨k, w⟩ := e
    simp only [Memory.put]
    split
    · simp [Memory.find]
    · split
      · subst_vars
        simp only [Memory.find]
        split <;> simp_all
      · simp only [Memory.find, ih]
        split <;> simp_all

@[simp] theorem Memory.find_put_self (m : List (Nat × α)) (a : Nat) (v : α) :
    Memory.find (Memory.put m a v) a = some v := by simp [Memory.find_put]

theorem Memory.find_put_ne (m : List (Nat × α)) {a b : Nat} (v : α) (h : a ≠ b) :
    Memory.find (Memory.put m a v) b = Memory.find m b := by simp [Memory.find_put, h]

theorem Memory.find_filter (m : List (Nat × α)) (p : Nat → Bool) (a : Nat) :
    Memory.find (m.filter fun e => p e.1) a = if p a then Memory.find m a else none := by
  induction m with
  | nil => simp
  | cons e m ih =>
    obtain ⟨k, w⟩ := e
    by_cases hk : p k <;> by_cases ha : k = a <;> simp_all [Memory.find]

theorem Memory.find_below (m : List (Nat × α)) (n a : Nat) :
    Memory.find (Memory.below m n) a = if a < n then Memory.find m a else none := by
  simpa [Memory.below] using Memory.find_filter m (fun k => decide (k < n)) a

theorem Memory.find_above (m : List (Nat × α)) (n a : Nat) :
    Memory.find (Memory.above m n) a = if n ≤ a then Memory.find m a else none := by
  simpa [Memory.above] using Memory.find_filter m (fun k => decide (n ≤ k)) a

theorem Memory.find_append (m m' : List (Nat × α)) (a : Nat) :
    Memory.find (m ++ m') a = (Memory.find m a).or (Memory.find m' a) := by
  induction m with
  | nil => simp
  | cons e m ih => simp only [List.cons_append, Memory.find]; split <;> simp_all

theorem Memory.find_fill (n : Nat) (f : Nat → α) (a : Nat) :
    Memory.find (Memory.fill n f) a = if a < n then some (f a) else none := by
  induction n with
  | zero => simp [Memory.fill]
  | succ n ih =>
    have : Memory.fill (n + 1) f = Memory.fill n f ++ [(n, f n)] := by simp [Memory.fill, List.range_succ]
    rw [this, Memory.find_append, ih]
    by_cases h : a < n
    · simp [h, Nat.lt_succ_of_lt h]
    · by_cases h' : n = a
      · subst h'; simp [Memory.find]
      · simp [Memory.find, h, h', show ¬ a < n + 1 by omega]

/-! ### The canonical form is kept -/

theorem Memory.mem_put {m : List (Nat × α)} {a : Nat} {v : α} {e : Nat × α} (h : e ∈ Memory.put m a v) :
    e = (a, v) ∨ e ∈ m := by
  induction m with
  | nil => simpa [Memory.put] using h
  | cons x m ih =>
    obtain ⟨k, w⟩ := x
    simp only [Memory.put] at h
    split at h
    · simpa using h
    · split at h
      · rcases List.mem_cons.mp h with h | h
        · exact .inl h
        · exact .inr (List.mem_cons_of_mem _ h)
      · rcases List.mem_cons.mp h with h | h
        · exact .inr (h ▸ List.mem_cons_self)
        · exact (ih h).imp_right (List.mem_cons_of_mem _)

theorem Memory.wf_nil : Memory.wf ([] : List (Nat × α)) := List.Pairwise.nil

theorem Memory.wf_put {m : List (Nat × α)} (h : Memory.wf m) (a : Nat) (v : α) : Memory.wf (Memory.put m a v) := by
  induction m with
  | nil => simp [Memory.put]
  | cons x m ih =>
    obtain ⟨k, w⟩ := x
    have ⟨hk, hm⟩ := List.pairwise_cons.mp h
    simp only [Memory.put]
    split
    · rename_i hlt
      refine List.pairwise_cons.mpr ⟨fun e he => ?_, h⟩
      rcases List.mem_cons.mp he with he | he
      · rw [he]; exact hlt
      · exact Nat.lt_trans hlt (hk e he)
    · split
      · rename_i heq; subst heq
        exact List.pairwise_cons.mpr ⟨hk, hm⟩
      · refine List.pairwise_cons.mpr ⟨fun e he => ?_, ih hm⟩
        rcases Memory.mem_put he with he | he
        · rw [he]; show k < a; omega
        · exact hk e he

theorem Memory.wf_below {m : List (Nat × α)} (h : Memory.wf m) (n : Nat) : Memory.wf (Memory.below m n) := h.filter _

theorem Memory.wf_above {m : List (Nat × α)} (h : Memory.wf m) (n : Nat) : Memory.wf (Memory.above m n) := h.filter _

theorem Memory.wf_fill (n : Nat) (f : Nat → α) : Memory.wf (Memory.fill n f) := by
  unfold Memory.fill Memory.wf
  rw [List.pairwise_map]
  exact List.pairwise_lt_range

theorem Memory.mem_fill {n : Nat} {f : Nat → α} {e : Nat × α} (h : e ∈ Memory.fill n f) : e.1 < n := by
  obtain ⟨a, ha, rfl⟩ := List.mem_map.mp h
  exact List.mem_range.mp ha

theorem Memory.mem_below {m : List (Nat × α)} {n : Nat} {e : Nat × α} (h : e ∈ Memory.below m n) : e ∈ m ∧ e.1 < n := by
  simpa [Memory.below] using h

theorem Memory.mem_above {m : List (Nat × α)} {n : Nat} {e : Nat × α} (h : e ∈ Memory.above m n) : e ∈ m ∧ n ≤ e.1 := by
  simpa [Memory.above] using h

/-- The form of FB after the LOAD phase. -/
theorem Memory.wf_fill_above {m : List (Nat × α)} (h : Memory.wf m) (n : Nat) (f : Nat → α) :
    Memory.wf (Memory.fill n f ++ Memory.above m n) :=
  List.pairwise_append.mpr ⟨Memory.wf_fill n f, Memory.wf_above h n,
    fun _ hx _ hy => Nat.lt_of_lt_of_le (Memory.mem_fill hx) (Memory.mem_above hy).2⟩

end

/-! ### FB and ACC -/

variable (s : State)

theorem State.readFb_congr {s t : State} (h : t.fb = s.fb) (he : t.fbEpoch = s.fbEpoch) (a : Nat) :
    t.readFb a = s.readFb a := by simp [State.readFb, h, he]

theorem State.memRead_congr {s t : State} (h : ∀ a, t.readFb a = s.readFb a) (a n : Nat) :
    t.memRead a n = s.memRead a n := by simp [State.memRead, h]

theorem State.readAcc_congr {s t : State} (h : t.acc = s.acc) (he : t.accEpoch = s.accEpoch) (i : Nat) :
    t.readAcc i = s.readAcc i := by simp [State.readAcc, h, he]

theorem State.readFb_writeFb (a : Nat) (v : Byte) (b : Nat) :
    (s.writeFb a v).readFb b = if a = b then v else s.readFb b := by
  simp only [State.readFb, State.writeFb_fb, State.writeFb_fbEpoch, Memory.find_put]
  split <;> rfl

@[simp] theorem State.readAcc_writeFb (a : Nat) (v : Byte) (i : Nat) : (s.writeFb a v).readAcc i = s.readAcc i := rfl

@[simp] theorem State.readFb_writeAcc (i : Nat) (v : Int) (a : Nat) : (s.writeAcc i v).readFb a = s.readFb a := rfl

theorem State.readAcc_writeAcc (i : Nat) (v : Int) (j : Nat) :
    (s.writeAcc i v).readAcc j = if i = j then BitVec.ofInt 16 v else s.readAcc j := by
  simp only [State.readAcc, State.writeAcc_acc, State.writeAcc_accEpoch, Memory.find_put]
  split <;> rfl

@[simp] theorem State.memRead_length (a n : Nat) : (s.memRead a n).length = n := by simp [State.memRead]

theorem State.memRead_getD (a n i : Nat) (h : i < n) (d : Byte) : (s.memRead a n).getD i d = s.readFb (a + i) := by
  simp [State.memRead, List.getD_eq_getElem?_getD, h]

/-- Two slices end to end are one slice. -/
theorem State.memRead_append (a n n' : Nat) : s.memRead a n ++ s.memRead (a + n) n' = s.memRead a (n + n') := by
  simp [State.memRead, List.range_add, Nat.add_assoc, Function.comp_def]

/-- What LOAD leaves in the bitmap region and beyond it (40_dither.md R132). -/
theorem State.loadStep_readFb (a : Nat) :
    s.loadStep.readFb a = if a < s.cfg.bmpBytes then 0 else s.readFb a := by
  simp only [State.readFb, State.loadStep_fb, State.loadStep_fbEpoch, Memory.find_append, Memory.find_fill,
    Memory.find_above]
  by_cases h : a < s.cfg.bmpBytes
  · simp [h]
  · simp [h, Nat.le_of_not_lt h]

/-- What LOAD leaves in ACC (40_dither.md R132). -/
theorem State.loadStep_readAcc (i : Nat) (h : i < s.cfg.pixels) :
    s.loadStep.readAcc i = (s.readFb i).setWidth 16 := by
  simp [State.readAcc, Memory.find_fill, h]

/-- The bitmap region survives the end of DITHER where it has specified bytes (40_dither.md R141). -/
theorem State.endDither_readFb (a : Nat) (v : Byte) (h : a < s.cfg.bmpBytes) (hv : Memory.find s.fb a = some v) :
    s.endDither.readFb a = v := by
  simp [State.readFb, Memory.find_below, h, hv]

end Sys2Proof.Machine
end

