-- ==== Sys2Proof/Laws/Framer.lean ====
section
/-! SUPPORT. What FRM can do: what its block steps leave unchanged, and what a run of them does to the packets of an
operation. -/

namespace Sys2Proof.Machine

variable (s : State)

/-! ### Runs -/

@[simp] theorem runFor_zero : runFor 0 s = s := rfl

theorem runFor_active (n : Nat) (h : s.active = true) : runFor (n + 1) s = runFor n s.advance := by
  simp [runFor, h]

/-- A block that has no step to make stays as it is. -/
theorem runFor_inactive (n : Nat) (h : s.active = false) : runFor n s = s := by
  cases n <;> simp [runFor, h]

theorem State.active_of_busy (hb : s.busy = true) (hs : s.stage ≠ .await) : s.active = true := by
  simp [State.active, State.waiting, hb, hs]

theorem State.active_of_answer (hb : s.busy = true) (hs : s.sink ≠ []) : s.active = true := by
  simp [State.active, State.waiting, hb, hs]

theorem State.inactive_of_idle (hb : s.busy = false) : s.active = false := by simp [State.active, hb]

theorem State.settle_idle (hb : s.busy = false) : s.settle = s := by
  unfold State.settle
  cases s.window <;> exact runFor_inactive s _ (s.inactive_of_idle hb)

/-- Two runs are one longer run. -/
theorem runFor_add (m n : Nat) : runFor (m + n) s = runFor n (runFor m s) := by
  induction m generalizing s with
  | zero => simp
  | succ m ih =>
    by_cases h : s.active = true
    · rw [Nat.add_right_comm, runFor_active _ _ h, runFor_active _ _ h, ih]
    · have h' : s.active = false := by simpa using h
      rw [runFor_inactive _ _ h', runFor_inactive _ _ h', runFor_inactive _ _ h']

/-- Package of an induction over a run: what holds before it and is kept by every step of an active block holds after. -/
theorem runFor_induct (P : State → Prop) (step : ∀ t, P t → t.active = true → P t.advance) (n : Nat) (h : P s) :
    P (runFor n s) := by
  induction n generalizing s with
  | zero => exact h
  | succ n ih =>
    by_cases ha : s.active = true
    · rw [runFor_active _ _ ha]; exact ih _ (step _ h ha)
    · rw [runFor_inactive _ _ (by simpa using ha)]; exact h

/-- A settled state is the state itself or a run of it. -/
theorem State.settle_eq_run : ∃ n, s.settle = runFor n s := by
  unfold State.settle
  cases s.window with
  | none => exact ⟨_, rfl⟩
  | some n => exact ⟨n, rfl⟩

/-! ### The frame of FRM -/

theorem FramerFrame.refl : FramerFrame s s :=
  ⟨⟨rfl, rfl, rfl, rfl, rfl, rfl, rfl, rfl, rfl⟩, fun _ => rfl, fun _ => rfl, ⟨rfl, rfl, rfl⟩,
    ⟨rfl, rfl, rfl, rfl, rfl⟩, rfl⟩

theorem FramerFrame.trans {s t u : State} (h : FramerFrame s t) (h' : FramerFrame t u) : FramerFrame s u where
  operands := ⟨h'.1.1.trans h.1.1, h'.1.2.trans h.1.2, h'.1.3.trans h.1.3, h'.1.4.trans h.1.4, h'.1.5.trans h.1.5,
    h'.1.6.trans h.1.6, h'.1.7.trans h.1.7, h'.1.8.trans h.1.8, h'.1.9.trans h.1.9⟩
  fb := fun a => (h'.fb a).trans (h.fb a)
  acc := fun i => (h'.acc i).trans (h.acc i)
  dth := ⟨h'.dth.1.trans h.dth.1, h'.dth.2.1.trans h.dth.2.1, h'.dth.2.2.trans h.dth.2.2⟩
  outside := ⟨h'.outside.1.trans h.outside.1, h'.outside.2.1.trans h.outside.2.1, h'.outside.2.2.1.trans h.outside.2.2.1,
    h'.outside.2.2.2.1.trans h.outside.2.2.2.1, h'.outside.2.2.2.2.trans h.outside.2.2.2.2⟩
  errDim := h'.errDim.trans h.errDim

/-- Equal fields give the frame. -/
theorem FramerFrame.of_eq {s t : State} (h : ({ t with
      busy := s.busy, halt := s.halt, errPkt := s.errPkt, errSend := s.errSend, stage := s.stage, k := s.k, job := s.job,
      txbuf := s.txbuf, txlen := s.txlen, txEpoch := s.txEpoch, timer := s.timer, out := s.out, sink := s.sink } : State) = s) :
    FramerFrame s t := by
  cases s
  cases t
  simp only [State.mk.injEq] at h
  obtain ⟨h1, h2, h3, h4, h5, h6, h7, h8, h9, h10, h11, h12, h13, h14, -, -, h17, -, -, h20, h21, h22, -, -, -, -, -, -, -,
    -, h31, -, h33, h34, h35⟩ := h
  subst_vars
  exact ⟨⟨rfl, rfl, rfl, rfl, rfl, rfl, rfl, rfl, rfl⟩, fun _ => rfl, fun _ => rfl, ⟨rfl, rfl, rfl⟩,
    ⟨rfl, rfl, rfl, rfl, rfl⟩, rfl⟩

theorem State.frame_endFramer : FramerFrame s s.endFramer := .of_eq rfl
theorem State.frame_raise_packetTooLarge : FramerFrame s (s.raise .packetTooLarge) := .of_eq rfl
theorem State.frame_loadTx (bytes : List Byte) : FramerFrame s (s.loadTx bytes) := .of_eq rfl
theorem State.frame_handOver : FramerFrame s s.handOver := .of_eq rfl
theorem State.frame_paceStep : FramerFrame s s.paceStep := .of_eq rfl
theorem State.frame_startFramer (j : Job) : FramerFrame s (s.startFramer j) := .of_eq rfl
theorem State.frame_noteAnswer (a : Answer) : FramerFrame s (s.noteAnswer a) := by cases a <;> exact .of_eq rfl

theorem State.frame_startPace : FramerFrame s s.startPace := .of_eq rfl
theorem State.frame_engage (j : Job) : FramerFrame s (s.engage j) := .of_eq rfl
theorem State.frame_takeAnswer (a : Answer) (rest : List Answer) : FramerFrame s (s.takeAnswer a rest) := by
  cases a <;> exact .of_eq rfl

theorem State.frame_afterAnswer : FramerFrame s s.afterAnswer := by
  unfold State.afterAnswer
  split
  · exact s.frame_startPace
  · exact s.frame_endFramer

theorem State.frame_buildStep : FramerFrame s s.buildStep := by
  unfold State.buildStep
  split
  · exact .refl s
  · split
    · exact s.frame_raise_packetTooLarge
    · exact s.frame_loadTx _

theorem State.frame_awaitStep : FramerFrame s s.awaitStep := by
  unfold State.awaitStep
  split
  · exact .refl s
  · exact .trans (s.frame_takeAnswer _ _) (State.frame_afterAnswer _)

/-- No block step of FRM touches what FRM does not own. -/
theorem State.frame_advance (h : s.stage ≠ .idle) : FramerFrame s s.advance := by
  unfold State.advance
  split
  · exact s.frame_buildStep
  · exact s.frame_handOver
  · exact s.frame_awaitStep
  · exact s.frame_paceStep
  · exact absurd (by assumption) h

/-- FRM is at work until BUSY falls. -/
theorem State.advance_stage (h : s.stage ≠ .idle) (hb : s.advance.busy = true) : s.advance.stage ≠ .idle := by
  unfold State.advance at hb ⊢
  split at hb
  · unfold State.buildStep at hb ⊢
    split at hb
    · exact h
    · split at hb
      · simp at hb
      · simp
  · simp
  · unfold State.awaitStep at hb ⊢
    split at hb
    · exact h
    · unfold State.afterAnswer at hb ⊢
      split at hb
      · rename_i hk; rw [if_pos hk]; simp
      · simp at hb
  · simp
  · exact absurd (by assumption) h

/-- The frame of a run of FRM. -/
theorem runFor_frame (n : Nat) (h : s.busy = true → s.stage ≠ .idle) : FramerFrame s (runFor n s) := by
  have := runFor_induct s (fun t => FramerFrame s t ∧ (t.busy = true → t.stage ≠ .idle))
    (fun t ht ha => by
      have hb : t.busy = true := by
        unfold State.active at ha; exact (Bool.and_eq_true_iff.mp ha).1
      exact ⟨ht.1.trans (t.frame_advance (ht.2 hb)), t.advance_stage (ht.2 hb)⟩) n ⟨.refl s, h⟩
  exact this.1

/-! ### The packets of an operation -/

theorem answerLast_append (a : Answer) (es : List Sent) (e : Sent) :
    answerLast a (es ++ [e]) = es ++ [{ e with answer := some a }] := by
  induction es with
  | nil => rfl
  | cons x es ih =>
    cases es with
    | nil => rfl
    | cons y es => simpa [answerLast] using ih

@[simp] theorem sentFrom_nil (p : Nat → List Byte) (k : Nat) : sentFrom p k [] = [] := rfl

theorem sentFrom_cons (p : Nat → List Byte) (k : Nat) (a : Answer) (as : List Answer) :
    sentFrom p k (a :: as) = ⟨p k, some a⟩ :: sentFrom p (k + 1) as := by simp [sentFrom]

/-- One packet, answered: from the stage build to what comes after the answer, in three block steps. -/
theorem State.packet_steps (j : Job) (m : Command) (bytes : List Byte) (a : Answer) (rest : List Answer)
    (hb : s.busy = true) (hs : s.stage = .build) (hj : s.job = some j) (hm : s.command s.k j = some m)
    (hp : build s.cfg m = some bytes) (hk : s.sink = a :: rest) (n : Nat) :
    runFor (n + 3) s = runFor n ((s.loadTx bytes).handOver.takeAnswer a rest).afterAnswer := by
  have h1 : s.advance = s.loadTx bytes := by simp [State.advance, hs, State.buildStep, hj, hm, hp]
  rw [runFor_active _ _ (s.active_of_busy hb (by simp [hs])), h1,
    runFor_active _ _ (State.active_of_busy _ (by simpa using hb) (by simp))]
  simp only [State.advance, State.loadTx_stage]
  rw [runFor_active _ _ (State.active_of_answer _ (by simpa using hb) (by simp [hk]))]
  simp [State.advance, State.awaitStep, hk]

/-- A packet answered, as OUT records it. -/
theorem State.out_takeAnswer (bytes : List Byte) (a : Answer) (rest : List Answer) :
    ((s.loadTx bytes).handOver.takeAnswer a rest).out = s.out ++ [⟨bytes, some a⟩] := by
  simp [answerLast_append]

/-- FRM's state after the last packet of an operation: K stands at `k`, OUT has grown by `sent`, SINK has `rest` to
answer. -/
def State.afterPackets (s : State) (k : Nat) (sent : List Sent) (send : Bool) (rest : List Answer) : State :=
  { s with busy := false, stage := .idle, job := none, k := k, txbuf := [], txEpoch := s.txEpoch + 1
           txlen := txLenUnspecified s.cfg (s.txEpoch + 1), sink := rest, out := s.out ++ sent
           errSend := (s.errSend || send) }

/-- Everything a run of FRM can do when every packet from K on fits and SINK answers each: OUT gets the packets in order
with their answers, ERR.SEND is set if one was `err`, and the operation ends (42_streamer.md R194, R195, R202). -/
theorem State.packets_run (packet : Nat → List Byte) (j : Job) (answers rest : List Answer) (n : Nat)
    (hb : s.busy = true) (hs : s.stage = .build) (hj : s.job = some j) (ht : s.timer = 0)
    (hp : ∀ i, s.k ≤ i → i < j.packets s.cfg → ∃ m, s.command i j = some m ∧ build s.cfg m = some (packet i))
    (hn : s.k + answers.length = j.packets s.cfg) (hne : answers ≠ []) (hk : s.sink = answers ++ rest)
    (hf : 4 * answers.length ≤ n) :
    runFor n s = s.afterPackets (s.k + answers.length - 1) (sentFrom packet s.k answers) (answers.contains .err) rest := by
  induction answers generalizing s n with
  | nil => exact absurd rfl hne
  | cons a as ih =>
    simp only [List.length_cons] at hn hf
    obtain ⟨m, hm, hbuild⟩ := hp s.k (Nat.le_refl _) (by omega)
    obtain ⟨n, rfl⟩ : ∃ n', n = n' + 3 := ⟨n - 3, by omega⟩
    rw [s.packet_steps j m (packet s.k) a (as ++ rest) hb hs hj hm hbuild (by simpa using hk)]
    generalize hu : (s.loadTx (packet s.k)).handOver.takeAnswer a (as ++ rest) = u
    have hout : u.out = s.out ++ [⟨packet s.k, some a⟩] := by rw [← hu]; exact s.out_takeAnswer _ _ _
    cases as with
    | nil =>
      have hlast : u.afterAnswer = u.endFramer := by
        have : ¬ s.k + 1 < j.packets s.cfg := by simp at hn; omega
        simp [State.afterAnswer, State.packets, ← hu, hj, this]
      rw [hlast, runFor_inactive _ _ (State.inactive_of_idle _ rfl)]
      have : u = { s with stage := .await, txbuf := u.txbuf, txlen := u.txlen, sink := rest, out := u.out,
                          errSend := (s.errSend || decide (a = .err)) } := by rw [← hu]; cases a <;> simp [State.takeAnswer, State.noteAnswer, State.handOver, State.loadTx]
      rw [this, hout]
      cases a <;> simp [State.endFramer, State.afterPackets, sentFrom_cons]
    | cons a' as =>
      simp only [List.length_cons] at hn hf
      obtain ⟨n, rfl⟩ : ∃ n', n = n' + 1 := ⟨n - 1, by omega⟩
      have hmore : u.afterAnswer = u.startPace := by
        have : s.k + 1 < j.packets s.cfg := by omega
        simp [State.afterAnswer, State.packets, ← hu, hj, this]
      have hpace : u.startPace.advance = u.startPace.paceStep := by simp [State.advance]
      rw [hmore, runFor_active _ _ (State.active_of_busy _ (by simp [← hu, hb]) (by simp)), hpace,
        ih u.startPace.paceStep n (by simp [← hu, hb]) (by simp) (by simp [← hu, hj]) (by simp) ?_ (by simp [← hu]; omega)
          (by simp) (by simp [← hu]) (by simp; omega)]
      · have : u = { s with stage := .await, txbuf := u.txbuf, txlen := u.txlen, sink := a' :: as ++ rest, out := u.out,
                            errSend := (s.errSend || decide (a = .err)) } := by rw [← hu]; cases a <;> simp [State.takeAnswer, State.noteAnswer, State.handOver, State.loadTx]
        rw [this, hout]
        simp only [State.startPace, State.paceStep, State.afterPackets, sentFrom_cons, State.mk.injEq, true_and, and_true,
          List.append_assoc, List.cons_append, List.nil_append, List.length_cons]
        refine ⟨?_, by omega, ht.symm⟩
        cases a <;> simp
      · intro i hi hlt
        simp [← hu] at hi hlt
        obtain ⟨m, hm, hb⟩ := hp i (by omega) hlt
        have hmem : ∀ a n, u.startPace.paceStep.memRead a n = s.memRead a n :=
          fun a n => State.memRead_congr (fun x => State.readFb_congr (by simp [← hu]) (by simp [← hu]) x) a n
        exact ⟨m, by rw [← hm]; cases j <;> simp [State.command, hmem] <;> simp [← hu], by simpa [← hu] using hb⟩

/-! ### Issue, and whole operations -/

/-- TXLEN where it is unspecified is still a fill length (10_state.md R43). -/
theorem txLenUnspecified_le (c : Config) (epoch : Nat) : txLenUnspecified c epoch ≤ c.maxPacketSize :=
  Nat.le_of_lt_succ (Nat.mod_lt _ (Nat.succ_pos _))

/-- A write to OP issues the operation while the block is idle and not halted (10_state.md R38). -/
theorem State.issue_ready (hb : s.busy = false) (hh : s.halt = false) (body : Host.Outcome State Fault Refusal) :
    s.issue body = body := by simp [State.issue, hb, hh]

/-- Otherwise it is ignored, and the operation in progress goes on (30_encoding.md R114). -/
theorem State.issue_ignored (h : s.busy = true ∨ s.halt = true) (body : Host.Outcome State Fault Refusal) :
    s.issue body = .next s.settle := by
  rcases h with h | h <;> simp [State.issue, h]

/-- Starting an operation changes none of the operands its packets are made from. -/
theorem State.command_startFramer (i : Nat) (j j' : Job) : (s.startFramer j).command i j' = s.command i j' := by
  cases j' <;> rfl

/-- Where HOST waits, the run after an issue has four steps a packet (`State.work`). -/
theorem State.settle_startFramer (j : Job) (hj : j ≠ .dither) (hw : s.window = none) :
    (s.startFramer j).settle = runFor (4 * j.packets s.cfg) (s.startFramer j) := by
  unfold State.settle
  rw [State.startFramer_window, hw]
  simp only [State.work, State.startFramer_job]
  cases j <;> rfl

theorem State.frame_afterPackets (k : Nat) (sent : List Sent) (send : Bool) (rest : List Answer) :
    FramerFrame s (s.afterPackets k sent send rest) := .of_eq rfl

/-- A whole operation of FRM from a ready block, SINK answering every packet (41_framer.md R165, R173; 42_streamer.md R194,
R195, R202, R204). -/
theorem State.sentAll_operation (packet : Nat → List Byte) (j : Job) (answers rest : List Answer) (hr : Ready s)
    (hj : j ≠ .dither)
    (hp : ∀ i, i < j.packets s.cfg → ∃ m, s.command i j = some m ∧ build s.cfg m = some (packet i))
    (hn : answers.length = j.packets s.cfg) (hpos : 1 ≤ j.packets s.cfg) (hk : s.sink = answers ++ rest) :
    SentAll s (s.startFramer j).settle (sentFrom packet 0 answers) answers rest := by
  rw [s.settle_startFramer j hj hr.window, State.packets_run (s.startFramer j) packet j answers rest _ rfl rfl rfl hr.timer
    (fun i _ hi => by rw [s.command_startFramer]; exact hp i hi) (by simpa using hn) (by intro h; simp [h] at hn; omega) hk
    (by omega)]
  exact ⟨.trans (s.frame_startFramer j) (State.frame_afterPackets _ _ _ _ _), rfl, rfl, rfl, rfl,
    ⟨rfl, hr.phase, rfl, rfl, hr.timer⟩, rfl⟩

/-- Everything raising PacketTooLargeError does (60_exceptions.md R222). -/
theorem State.tooLarge_raise : TooLarge s (s.raise .packetTooLarge) :=
  ⟨s.frame_raise_packetTooLarge, rfl, rfl, rfl, rfl, rfl, rfl⟩

/-- An operation of FRM whose packet 0 does not fit ends before any datagram (60_exceptions.md R222, R227). -/
theorem State.tooLarge_operation (j : Job) (m : Command) (hw : s.window = none) (hm : s.command 0 j = some m)
    (hj : 1 ≤ j.packets s.cfg) (hb : build s.cfg m = none) : TooLarge s (s.startFramer j).settle := by
  have hd : j ≠ .dither := by rintro rfl; simp [Job.packets] at hj
  have h1 : (s.startFramer j).advance = (s.startFramer j).raise .packetTooLarge := by
    simp [State.advance, State.buildStep, s.command_startFramer, hm, hb]
  obtain ⟨n, hn⟩ : ∃ n, 4 * j.packets s.cfg = n + 1 := ⟨4 * j.packets s.cfg - 1, by omega⟩
  rw [s.settle_startFramer j hd hw, hn, runFor_active _ _ (State.active_of_busy _ rfl (by simp)), h1,
    runFor_inactive _ _ (State.inactive_of_idle _ rfl)]
  exact ⟨.trans (s.frame_startFramer j) (State.frame_raise_packetTooLarge _), rfl, rfl, rfl, rfl, rfl, rfl⟩

end Sys2Proof.Machine
end

