-- ==== Sys2Proof/Laws/Dither.lean ====
section
/-! SUPPORT. What DTH can do: what one pixel changes in FB and in ACC, and that nothing else changes. -/

namespace Sys2Proof.Machine

variable (s : State)

/-! ### Only FB and ACC change -/

/-- The state with another FB and another ACC, everything else kept. -/
def State.withMemories (fb : List Host.Cell) (acc : List (Nat × AccEntry)) : State := { s with fb := fb, acc := acc }

theorem State.packBit_eq (bit : Bool) (r c : Nat) : s.packBit bit r c = s.withMemories (s.packBit bit r c).fb s.acc := by
  unfold State.packBit
  dsimp only
  split <;> rfl

theorem State.diffuse_eq (inside : Bool) (i : Nat) (e : Int) :
    s.diffuse inside i e = s.withMemories s.fb (s.diffuse inside i e).acc := by
  unfold State.diffuse
  split <;> rfl

/-- One pixel changes FB and ACC and nothing else (40_dither.md R134 to R139). -/
theorem State.pixelStep_eq (r c : Nat) :
    s.pixelStep r c = s.withMemories (s.pixelStep r c).fb (s.pixelStep r c).acc := by
  unfold State.pixelStep
  dsimp only
  rw [State.diffuse_eq, State.diffuse_eq (State.diffuse _ _ _ _), State.diffuse_eq (State.diffuse _ _ _ _),
    State.diffuse_eq (State.packBit _ _ _ _), State.packBit_eq]
  rfl

section
variable (bit inside : Bool) (r c i : Nat) (e : Int)

@[simp] theorem State.packBit_cfg : (s.packBit bit r c).cfg = s.cfg := by rw [s.packBit_eq]; rfl
@[simp] theorem State.diffuse_cfg : (s.diffuse inside i e).cfg = s.cfg := by rw [s.diffuse_eq]; rfl
@[simp] theorem State.pixelStep_cfg : (s.pixelStep r c).cfg = s.cfg := by rw [s.pixelStep_eq]; rfl
@[simp] theorem State.pixelStep_fbEpoch : (s.pixelStep r c).fbEpoch = s.fbEpoch := by rw [s.pixelStep_eq]; rfl
@[simp] theorem State.pixelStep_accEpoch : (s.pixelStep r c).accEpoch = s.accEpoch := by rw [s.pixelStep_eq]; rfl
@[simp] theorem State.pixelStep_busy : (s.pixelStep r c).busy = s.busy := by rw [s.pixelStep_eq]; rfl
@[simp] theorem State.pixelStep_phase : (s.pixelStep r c).phase = s.phase := by rw [s.pixelStep_eq]; rfl
@[simp] theorem State.pixelStep_stage : (s.pixelStep r c).stage = s.stage := by rw [s.pixelStep_eq]; rfl
@[simp] theorem State.pixelStep_job : (s.pixelStep r c).job = s.job := by rw [s.pixelStep_eq]; rfl
@[simp] theorem State.pixelStep_row : (s.pixelStep r c).row = s.row := by rw [s.pixelStep_eq]; rfl
@[simp] theorem State.pixelStep_col : (s.pixelStep r c).col = s.col := by rw [s.pixelStep_eq]; rfl
@[simp] theorem State.pixelStep_sink : (s.pixelStep r c).sink = s.sink := by rw [s.pixelStep_eq]; rfl

end

/-! ### What they change -/

/-- `ACC` after one error term (40_dither.md R139). -/
theorem State.readAcc_diffuse (inside : Bool) (i : Nat) (e : Int) (j : Nat) :
    (s.diffuse inside i e).readAcc j = s.readAcc j + BitVec.ofInt 16 (if inside = true ∧ j = i then e else 0) := by
  unfold State.diffuse
  split
  · rename_i h
    rw [State.readAcc_writeAcc]
    by_cases hj : i = j
    · subst hj
      simp [h, BitVec.ofInt_add]
    · simp [hj, Ne.symm hj]
  · rename_i h
    simp [h]

@[simp] theorem State.readAcc_packBit (bit : Bool) (r c i : Nat) : (s.packBit bit r c).readAcc i = s.readAcc i := by
  rw [s.packBit_eq]; rfl

@[simp] theorem State.readFb_diffuse (inside : Bool) (i : Nat) (e : Int) (a : Nat) :
    (s.diffuse inside i e).readFb a = s.readFb a := by rw [s.diffuse_eq]; rfl

/-- FB after the packing of one bit (40_dither.md R136). -/
theorem State.readFb_packBit (bit : Bool) (r c a : Nat) :
    (s.packBit bit r c).readFb a =
      if bit = true ∧ a = r * s.cfg.rowBytes + c / 8 then s.readFb a ||| pixelMask c else s.readFb a := by
  unfold State.packBit
  dsimp only
  split
  · rename_i h
    rw [State.readFb_writeFb]
    by_cases ha : r * s.cfg.rowBytes + c / 8 = a
    · subst ha; simp [h]
    · simp [ha, Ne.symm ha]
  · rename_i h
    simp [h]

/-- FB after one pixel (40_dither.md R135, R136). -/
theorem State.readFb_pixelStep (r c a : Nat) :
    (s.pixelStep r c).readFb a =
      if thresholdBit s.cfg.threshold (s.readAcc (r * s.cfg.width + c)).toInt = true ∧ a = r * s.cfg.rowBytes + c / 8
      then s.readFb a ||| pixelMask c else s.readFb a := by
  unfold State.pixelStep
  simp [State.readFb_packBit]

/-- ACC after one pixel: the sum of the terms that reach an entry (40_dither.md R138, R139). -/
theorem State.readAcc_pixelStep (r c i : Nat) :
    let d := quantError s.cfg.threshold (s.readAcc (r * s.cfg.width + c)).toInt
    let w := s.cfg.width
    let h := s.cfg.height
    (s.pixelStep r c).readAcc i = s.readAcc i +
      BitVec.ofInt 16 (if c + 1 < w ∧ i = r * w + (c + 1) then errTerm 7 d else 0) +
      BitVec.ofInt 16 (if (r + 1 < h ∧ 1 ≤ c) ∧ i = (r + 1) * w + (c - 1) then errTerm 3 d else 0) +
      BitVec.ofInt 16 (if r + 1 < h ∧ i = (r + 1) * w + c then errTerm 5 d else 0) +
      BitVec.ofInt 16 (if (r + 1 < h ∧ c + 1 < w) ∧ i = (r + 1) * w + (c + 1) then errTerm 1 d else 0) := by
  unfold State.pixelStep
  simp only [State.readAcc_diffuse, State.readAcc_packBit, decide_eq_true_eq]

/-! ### The block steps -/

/-- Everything one SCAN step does: a pixel, then the next place or the end (40_dither.md R147). -/
theorem State.scanStep_cases :
    (s.col + 1 < s.cfg.width ∧ s.scanStep = { s.pixelStep s.row s.col with col := s.col + 1 }) ∨
    (s.cfg.width ≤ s.col + 1 ∧ s.row + 1 < s.cfg.height ∧
      s.scanStep = { s.pixelStep s.row s.col with col := 0, row := s.row + 1 }) ∨
    (s.cfg.width ≤ s.col + 1 ∧ s.cfg.height ≤ s.row + 1 ∧ s.scanStep = (s.pixelStep s.row s.col).endDither) := by
  unfold State.scanStep
  dsimp only
  split
  · exact .inl ⟨by assumption, rfl⟩
  · split
    · exact .inr (.inl ⟨by omega, by assumption, rfl⟩)
    · exact .inr (.inr ⟨by omega, by omega, rfl⟩)

/-! ### The frame of DTH -/

theorem DitherFrame.refl : DitherFrame s s :=
  ⟨⟨rfl, rfl, rfl, rfl, rfl, rfl, rfl, rfl, rfl⟩, ⟨rfl, rfl, rfl, rfl, rfl⟩,
    ⟨rfl, rfl, rfl, rfl, rfl⟩, rfl, rfl, rfl, rfl, rfl⟩

theorem DitherFrame.trans {s t u : State} (h : DitherFrame s t) (h' : DitherFrame t u) : DitherFrame s u where
  operands := ⟨h'.1.1.trans h.1.1, h'.1.2.trans h.1.2, h'.1.3.trans h.1.3, h'.1.4.trans h.1.4, h'.1.5.trans h.1.5,
    h'.1.6.trans h.1.6, h'.1.7.trans h.1.7, h'.1.8.trans h.1.8, h'.1.9.trans h.1.9⟩
  frm := ⟨h'.frm.1.trans h.frm.1, h'.frm.2.1.trans h.frm.2.1, h'.frm.2.2.1.trans h.frm.2.2.1,
    h'.frm.2.2.2.1.trans h.frm.2.2.2.1, h'.frm.2.2.2.2.trans h.frm.2.2.2.2⟩
  outside := ⟨h'.outside.1.trans h.outside.1, h'.outside.2.1.trans h.outside.2.1, h'.outside.2.2.1.trans h.outside.2.2.1,
    h'.outside.2.2.2.1.trans h.outside.2.2.2.1, h'.outside.2.2.2.2.trans h.outside.2.2.2.2⟩
  out := h'.out.trans h.out
  sink := h'.sink.trans h.sink
  halt := h'.halt.trans h.halt
  errPkt := h'.errPkt.trans h.errPkt
  errSend := h'.errSend.trans h.errSend

/-- Equal fields give the frame. -/
theorem DitherFrame.of_eq {s t : State} (h : ({ t with
      fb := s.fb, fbEpoch := s.fbEpoch, acc := s.acc, accEpoch := s.accEpoch, busy := s.busy, errDim := s.errDim,
      phase := s.phase, row := s.row, col := s.col, job := s.job } : State) = s) : DitherFrame s t := by
  obtain ⟨⟩ := s
  obtain ⟨⟩ := t
  simp only [State.mk.injEq] at h
  simp only [true_and] at h
  obtain ⟨h1, h6, h7, h8, h9, h10, h11, h12, h13, h14, h16, h18, h19, h23, h24, h26, h27, h28, h29, h30, h31, h32, h33,
    h34, h35⟩ := h
  exact ⟨⟨h6, h7, h8, h9, h10, h11, h12, h13, h14⟩, ⟨h23, h24, h26, h27, h29⟩, ⟨h1, h33, h34, h31, h35⟩, h30,
    h32, h16, h18, h19⟩

theorem State.frame_pixelStep (r c : Nat) : DitherFrame s (s.pixelStep r c) := by
  rw [s.pixelStep_eq]; exact .of_eq rfl

theorem State.frame_startDither : DitherFrame s s.startDither := .of_eq rfl
theorem State.frame_loadStep : DitherFrame s s.loadStep := .of_eq rfl
theorem State.frame_endDither : DitherFrame s s.endDither := .of_eq rfl
theorem State.frame_raise_invalidDimensions : DitherFrame s (s.raise .invalidDimensions) := .of_eq rfl

theorem State.frame_scanStep : DitherFrame s s.scanStep := by
  have hp := s.frame_pixelStep s.row s.col
  obtain ⟨-, h⟩ | ⟨-, -, h⟩ | ⟨-, -, h⟩ := s.scanStep_cases <;> rw [h]
  · exact hp.trans (.of_eq rfl)
  · exact hp.trans (.of_eq rfl)
  · exact hp.trans (State.frame_endDither _)

/-- No block step of DTH touches what DTH does not own. -/
theorem State.frame_advance_dither (h : s.stage = .idle) : DitherFrame s s.advance := by
  simp only [State.advance, h]
  split
  · exact s.frame_loadStep
  · exact s.frame_scanStep
  · exact .refl s

/-- The frame of a run of DTH. -/
theorem runFor_frame_dither (n : Nat) (h : s.stage = .idle) : DitherFrame s (runFor n s) := by
  have := runFor_induct s (fun t => DitherFrame s t ∧ t.stage = .idle)
    (fun t ht _ => by
      have hf := t.frame_advance_dither ht.2
      exact ⟨ht.1.trans hf, hf.frm.1.trans ht.2⟩) n ⟨.refl s, h⟩
  exact this.1

end Sys2Proof.Machine
end

