-- ==== Sys2Proof/Laws/HostPort.lean ====
section
/-! SUPPORT. What a step does with each access of HOST. -/

namespace Sys2Proof.Machine

/-! ### What a register write leaves as it was: all but the operand registers and two flags (10_state.md R40, R41) -/

section
variable (s : State) (i v : Nat)

@[simp] theorem State.writeReg_cfg : (s.writeReg i v).cfg = s.cfg := by unfold State.writeReg; split <;> rfl
@[simp] theorem State.writeReg_fb : (s.writeReg i v).fb = s.fb := by unfold State.writeReg; split <;> rfl
@[simp] theorem State.writeReg_fbEpoch : (s.writeReg i v).fbEpoch = s.fbEpoch := by unfold State.writeReg; split <;> rfl
@[simp] theorem State.writeReg_acc : (s.writeReg i v).acc = s.acc := by unfold State.writeReg; split <;> rfl
@[simp] theorem State.writeReg_accEpoch : (s.writeReg i v).accEpoch = s.accEpoch := by unfold State.writeReg; split <;> rfl
@[simp] theorem State.writeReg_busy : (s.writeReg i v).busy = s.busy := by unfold State.writeReg; split <;> rfl
@[simp] theorem State.writeReg_halt : (s.writeReg i v).halt = s.halt := by unfold State.writeReg; split <;> rfl
@[simp] theorem State.writeReg_errPkt : (s.writeReg i v).errPkt = s.errPkt := by unfold State.writeReg; split <;> rfl
@[simp] theorem State.writeReg_phase : (s.writeReg i v).phase = s.phase := by unfold State.writeReg; split <;> rfl
@[simp] theorem State.writeReg_row : (s.writeReg i v).row = s.row := by unfold State.writeReg; split <;> rfl
@[simp] theorem State.writeReg_col : (s.writeReg i v).col = s.col := by unfold State.writeReg; split <;> rfl
@[simp] theorem State.writeReg_stage : (s.writeReg i v).stage = s.stage := by unfold State.writeReg; split <;> rfl
@[simp] theorem State.writeReg_k : (s.writeReg i v).k = s.k := by unfold State.writeReg; split <;> rfl
@[simp] theorem State.writeReg_job : (s.writeReg i v).job = s.job := by unfold State.writeReg; split <;> rfl
@[simp] theorem State.writeReg_txbuf : (s.writeReg i v).txbuf = s.txbuf := by unfold State.writeReg; split <;> rfl
@[simp] theorem State.writeReg_txlen : (s.writeReg i v).txlen = s.txlen := by unfold State.writeReg; split <;> rfl
@[simp] theorem State.writeReg_txEpoch : (s.writeReg i v).txEpoch = s.txEpoch := by unfold State.writeReg; split <;> rfl
@[simp] theorem State.writeReg_timer : (s.writeReg i v).timer = s.timer := by unfold State.writeReg; split <;> rfl
@[simp] theorem State.writeReg_out : (s.writeReg i v).out = s.out := by unfold State.writeReg; split <;> rfl
@[simp] theorem State.writeReg_rdata : (s.writeReg i v).rdata = s.rdata := by unfold State.writeReg; split <;> rfl
@[simp] theorem State.writeReg_sink : (s.writeReg i v).sink = s.sink := by unfold State.writeReg; split <;> rfl
@[simp] theorem State.writeReg_host : (s.writeReg i v).host = s.host := by unfold State.writeReg; split <;> rfl
@[simp] theorem State.writeReg_window : (s.writeReg i v).window = s.window := by unfold State.writeReg; split <;> rfl
@[simp] theorem State.writeReg_dutiful : (s.writeReg i v).dutiful = s.dutiful := by unfold State.writeReg; split <;> rfl

@[simp] theorem State.writeReg_readFb (a : Nat) : (s.writeReg i v).readFb a = s.readFb a :=
  State.readFb_congr (by simp) (by simp) a

@[simp] theorem State.writeReg_readAcc (j : Nat) : (s.writeReg i v).readAcc j = s.readAcc j :=
  State.readAcc_congr (by simp) (by simp) j

end

/-! ### A step -/

variable {s : State} {w : Option Nat} {rest : List HostEvent}

/-- The access at the head of HOST's queue is the step's. -/
theorem step_host {m : HostMove} (h : s.host = ⟨m, w⟩ :: rest) : step s = (s.schedule rest w).hostMove m := by
  simp [step, h]

/-- Without one, the block moves alone. -/
theorem step_alone (h : s.host = []) : step s = (s.schedule [] none).blockMove := by simp [step, h]

/-- A write to OP that HOST has executes the operation the value selects. -/
theorem hostMove_write_op {value : Nat} (h : s.opBreach value = none) :
    s.hostMove (.write 0 value) = exec (decodeOp value) s := by simp [State.hostMove, State.hostOp, h]

/-- One that a HOST keeping its duty does not have is refused. -/
theorem hostMove_write_op_refused {value : Nat} {r : Refusal} (h : s.opBreach value = some r) :
    s.hostMove (.write 0 value) = .refused r := by simp [State.hostMove, State.hostOp, h]

/-- HOST has every write to OP where it is not held to its duty, ... -/
theorem State.opBreach_of_not_dutiful (h : s.dutiful = false) (value : Nat) : s.opBreach value = none := by
  simp [State.opBreach, h]

/-- ... and every write while HALT. -/
theorem State.opBreach_of_halt (hb : s.busy = false) (hh : s.halt = true) (value : Nat) : s.opBreach value = none := by
  simp [State.opBreach, hb, hh]

/-- A write to another register is stored, and the block goes on. -/
theorem hostMove_write (index value : Nat) :
    s.hostMove (.write (index + 1) value) = .next (s.writeReg (index + 1) value).settle := rfl

/-- A read puts the register on the port, and the block goes on. -/
theorem hostMove_read (index : Nat) : s.hostMove (.read index) = .next (s.hostRead index).settle := rfl

end Sys2Proof.Machine
end

