-- ==== Sys2Proof/Laws/PerInstr.lean ====
section
/-! SUPPORT. What holds of every instruction as syntax, one lemma per constructor: the number of bytes of its words. -/

namespace Sys2Proof.Laws.Encoded

/-- The words of an operation are the one byte that holds its number; those of a packet are a header of ten bytes and the
payload, and they fit MAX_PACKET_SIZE exactly when the instruction is well-formed (30_encoding.md R101, R109, R112). -/
def Statement (i : Instr) : Prop :=
  ∀ c : Config,
    (encode c i).length = (match i.space with | .wire => 10 + i.payload.length | .opReg => 1) ∧
    (i.space = .wire → (i.wf c = true ↔ (encode c i).length ≤ c.maxPacketSize))

theorem wf_iff (c : Config) (i : Instr) : i.wf c = true ↔ headerSize + i.payload.length ≤ c.maxPacketSize :=
  decide_eq_true_iff

theorem pktDraw (xpos ypos xsize ysize : Half) (payload : List Byte) :
    Statement (.pktDraw xpos ypos xsize ysize payload) := by
  intro c
  rw [wf_iff]
  simp [encode, Instr.space, Instr.payload, headerSize]

theorem pktClear : Statement .pktClear := by
  intro c
  rw [wf_iff]
  simp [encode, Instr.space, Instr.payload, headerSize]

theorem pktSetBrightness (level : Byte) : Statement (.pktSetBrightness level) := by
  intro c
  rw [wf_iff]
  simp [encode, Instr.space, Instr.payload, headerSize]

theorem reserved0 : Statement .reserved0 := fun _ => ⟨rfl, nofun⟩
theorem dither : Statement .dither := fun _ => ⟨rfl, nofun⟩
theorem clear : Statement .clear := fun _ => ⟨rfl, nofun⟩
theorem bright : Statement .bright := fun _ => ⟨rfl, nofun⟩
theorem draw : Statement .draw := fun _ => ⟨rfl, nofun⟩
theorem stream : Statement .stream := fun _ => ⟨rfl, nofun⟩
theorem streambuf : Statement .streambuf := fun _ => ⟨rfl, nofun⟩
theorem reserved7 : Statement .reserved7 := fun _ => ⟨rfl, nofun⟩

end Sys2Proof.Laws.Encoded
end

