-- ==== Sys2Proof/Tests/Slice0.lean ====
section
/-! SUPPORT. Tests on small states: expected results are the spec's transcribed examples and derived vectors
(95_test_vectors.md), in its test configuration TC-S unless a test says otherwise. -/

namespace Sys2Proof.Tests

open Sys2Proof.Machine

/-- A configuration with TC-S's codes and packet limit and a frame of `w` by `h` pixels at threshold `t`. -/
def params (w h t : Nat) : Params where
  width := w
  height := h
  threshold := t
  maxPacketSize := 16
  cmdDraw := 0x0D12
  cmdClear := 0x0C02
  cmdSetBrightness := 0x0B07
  hdrBigEndian := true
  bandRows := 2
  bandFields := defaultBandFields w h 2
  defaultParts := 3
  partFields := [((0, 3, 2), ⟨0, 0, 3, 2⟩), ((1, 3, 2), ⟨1, 0, 3, 2⟩), ((2, 3, 2), ⟨2, 0, 3, 2⟩)]
  paceDelay := 500

/-- TC-S (95_test_vectors.md section 0), PART_FIELDS being PF-T at the arguments V34 needs. -/
def tcS : Config := { toParams := params 16 3 127, ok := by decide }

/-- TC-S with the other byte order. -/
def tcSLittle : Config := { toParams := { params 16 3 127 with hdrBigEndian := false }, ok := by decide }

/-- TC-S with a packet limit of 10 bytes. -/
def tcSTen : Config := { toParams := { params 16 3 127 with maxPacketSize := 10 }, ok := by decide }

/-- Frames of the dither vectors that name a width, a height and a threshold. -/
def tc8x1 : Config := { toParams := params 8 1 127, ok := by decide }
def tc8x2 : Config := { toParams := params 8 2 127, ok := by decide }
def tc8x1Low : Config := { toParams := params 8 1 0, ok := by decide }

/-- The machine after reset under a configuration, TXLEN being 0, with answers of SINK to come. -/
def start (c : Config) (sink : List Answer) : State := 
  { State.reset with cfg := c, parts := c.defaultParts, sink := sink, txlen := 0 }

/-- FB holding these bytes from address 0 on, and FB_LEN their number. -/
def withFrame (s : State) (bytes : List Byte) : State :=
  { s with fb := bytes.zipIdx.map (fun e => (e.2, e.1)), fbLen := BitVec.ofNat 32 bytes.length }

/-- A check of the next state; false where there is none. -/
def after (o : Host.Outcome State Fault Refusal) (p : State → Bool) : Bool :=
  match o with
  | .next t => p t
  | .fault _ => false
  | .refused _ => false

def refusedAs (o : Host.Outcome State Fault Refusal) (r : Refusal) : Bool :=
  match o with
  | .next _ => false
  | .fault _ => false
  | .refused q => q == r

def faultedAs (o : Host.Outcome State Fault Refusal) (f : Fault) : Bool :=
  match o with
  | .next _ => false
  | .fault g => g == f
  | .refused _ => false

/-- The bitmap of V12 in FB. -/
def bitmapS : List Byte := [0x00, 0x00, 0x2A, 0xDF, 0xDF, 0xFF]
def withBitmap (c : Config) (sink : List Answer) : State := withFrame (start c sink) bitmapS

/-- V20: the Clear packet. -/
def clearBytes : List Byte := [0x0C, 0x02, 0, 0, 0, 0, 0, 0, 0, 0]

/-! ### Well-formedness and decoding -/

/-- The one check: a Draw whose packet is one byte too long (V25). -/
theorem test_wf_refuses_long_draw : (Instr.pktDraw 0 0 0 0 (List.replicate 7 0)).wf tcS = false := by decide
theorem test_wf_accepts_full_draw : (Instr.pktDraw 0 0 0 0 (List.replicate 6 0)).wf tcS = true := by decide

/-- An inconsistent configuration does not exist (U15): here a width that 8 does not divide. -/
theorem test_params_refuses_width : ¬ (params 12 3 127).Ok := by decide

/-- The eight numbers of 30_encoding.md R112, and the ignored bits above OPC (10_state.md R38). -/
theorem test_decode_reserved0 : decode tcS .opReg [0b000] = .ok .reserved0 := by decide
theorem test_decode_dither : decode tcS .opReg [0b001] = .ok .dither := by decide
theorem test_decode_clear : decode tcS .opReg [0b010] = .ok .clear := by decide
theorem test_decode_bright : decode tcS .opReg [0b011] = .ok .bright := by decide
theorem test_decode_draw : decode tcS .opReg [0b100] = .ok .draw := by decide
theorem test_decode_stream : decode tcS .opReg [0b101] = .ok .stream := by decide
theorem test_decode_streambuf : decode tcS .opReg [0b110] = .ok .streambuf := by decide
theorem test_decode_reserved7 : decode tcS .opReg [0b111] = .ok .reserved7 := by decide
theorem test_decode_ignores_high_bits : decode tcS .opReg [0b10101110] = .ok .streambuf := by decide

/-- V18: the packet written out byte by byte. -/
theorem test_decode_pktDraw :
    decode tcS .wire [0x0D, 0x12, 0x01, 0x02, 0xFF, 0xFF, 0x80, 0x00, 0x00, 0xFF, 0x00, 0x00, 0x2A, 0xDF, 0xDF, 0xFF] =
      .ok (.pktDraw 0x0102 0xFFFF 0x8000 0x00FF bitmapS) := by decide

/-- V20: the Clear packet. -/
theorem test_decode_pktClear :
    decode tcS .wire [0x0C, 0x02, 0, 0, 0, 0, 0, 0, 0, 0] = .ok .pktClear := by decide

/-- V21: the SetBrightness packet. -/
theorem test_decode_pktSetBrightness :
    decode tcS .wire [0x0B, 0x07, 0, 0, 0, 0, 0, 0, 0, 0, 0x80] = .ok (.pktSetBrightness 0x80) := by decide

/-- V20 in the other byte order. -/
theorem test_decode_little_endian :
    decode tcSLittle .wire [0x02, 0x0C, 0, 0, 0, 0, 0, 0, 0, 0] = .ok .pktClear := by decide

/-- What R110 and R117 exclude, by name. -/
theorem test_decode_short : decode tcS .wire [0x0C, 0x02] = .error .shortPacket := by decide
theorem test_decode_unknown : decode tcS .wire [0x12, 0x0D, 0, 0, 0, 0, 0, 0, 0, 0] = .error .unknownCommand := by decide
theorem test_decode_long_clear :
    decode tcS .wire [0x0C, 0x02, 0, 0, 0, 0, 0, 0, 0, 0, 0] = .error .clearLength := by decide
theorem test_decode_unused_field :
    decode tcS .wire [0x0C, 0x02, 0, 1, 0, 0, 0, 0, 0, 0] = .error .unusedFieldNotZero := by decide

/-- 30_encoding.md R110: the parser looks at codes and lengths only. -/
theorem test_parse_unused_field :
    parsePacket tcS [0x0C, 0x02, 0, 1, 0, 0, 0, 0, 0, 0] = .ok (.clear ⟨1, 0, 0, 0⟩) := by decide
theorem test_parse_long_setBrightness :
    parsePacket tcS [0x0B, 0x07, 0, 0, 0, 0, 0, 0, 0, 0, 1, 2] = .error .setBrightnessLength := by decide

/-- V18 and V19: the encoder in both orders; payload bytes are not swapped. -/
theorem test_encode_big : encode tcS (.pktDraw 0x0102 0xFFFF 0x8000 0x00FF [0x2A]) =
    [0x0D, 0x12, 0x01, 0x02, 0xFF, 0xFF, 0x80, 0x00, 0x00, 0xFF, 0x2A] := by decide
theorem test_encode_little : encode tcSLittle (.pktDraw 0x0102 0xFFFF 0x8000 0x00FF [0x00, 0x2A]) =
    [0x12, 0x0D, 0x02, 0x01, 0xFF, 0xFF, 0x00, 0x80, 0xFF, 0x00, 0x00, 0x2A] := by decide

/-- 30_encoding.md R104: byte `i` of the packet is `H[79-8i : 72-8i]`. -/
theorem test_header_bits : headerBytes true 0x0D120102FFFF800000FF =
    [0x0D, 0x12, 0x01, 0x02, 0xFF, 0xFF, 0x80, 0x00, 0x00, 0xFF] := by decide

/-! ### DITHER -/

/-- V1: the four terms truncate toward zero. -/
theorem test_terms_negative : [7, 3, 5, 1].map (errTerm · (-55)) = [-24, -10, -17, -3] := by decide
theorem test_terms_positive : [7, 3, 5, 1].map (errTerm · 100) = [43, 18, 31, 6] := by decide

/-- V6, the discriminating vector: 8×2, all 77, bitmap `10 4A`. -/
theorem test_dither_v6 :
    after (exec .dither (withFrame (start tc8x2 []) (List.replicate 16 77)))
      (fun t => t.memRead 0 2 == [0x10, 0x4A] && !t.busy && !t.errDim) = true := by decide +kernel

/-- V2: the 8×2 ramp, bitmap `17 E0`. -/
theorem test_dither_v2 :
    after (exec .dither (withFrame (start tc8x2 [])
        [0, 32, 64, 96, 128, 160, 192, 224, 255, 200, 150, 100, 50, 25, 12, 0]))
      (fun t => t.memRead 0 2 == [0x17, 0xE0]) = true := by decide +kernel

/-- V11: threshold 0, all 1, bitmap `82`, by the one-function form. -/
theorem test_ditherFn_v11 : ditherFn (List.replicate 8 1) 8 1 0 = [0x82] := by decide +kernel

/-- V12: the frame of TC-S, by the one-function form. -/
theorem test_ditherFn_v12 :
    ditherFn ((List.range 48).map fun i => BitVec.ofNat 8 (5 * i)) 16 3 127 = bitmapS := by decide +kernel

/-- V13: a declared length of 15 for 16 pixels. -/
theorem test_dither_dim :
    after (exec .dither { withFrame (start tc8x2 []) (List.replicate 16 77) with fbLen := 15 })
      (fun t => t.errDim && !t.busy && !t.halt && t.readFb 0 == 77) = true := by decide +kernel

/-! ### CLEAR, BRIGHT, DRAW -/

/-- V20. -/
theorem test_clear : after (exec .clear (start tcS [.ok]))
    (fun t => t.out == [⟨[0x0C, 0x02, 0, 0, 0, 0, 0, 0, 0, 0], some .ok⟩] && !t.busy && !t.errSend) = true := by
  decide +kernel

/-- V29: SINK answers `err`. -/
theorem test_clear_err : after (exec .clear (start tcS [.err]))
    (fun t => t.out == [⟨[0x0C, 0x02, 0, 0, 0, 0, 0, 0, 0, 0], some .err⟩] && t.errSend && !t.busy && !t.halt) = true := by
  decide +kernel

/-- V21. -/
theorem test_bright : after (exec .bright { start tcS [.ok] with bright := 0x80 })
    (fun t => t.out == [⟨[0x0B, 0x07, 0, 0, 0, 0, 0, 0, 0, 0, 0x80], some .ok⟩]) = true := by decide +kernel

/-- 41_framer.md R167: with MAX_PACKET_SIZE = 10 the packet does not fit. -/
theorem test_bright_too_large : after (exec .bright (start tcSTen [.ok]))
    (fun t => t.out == [] && t.errPkt && t.halt && !t.busy) = true := by decide +kernel

/-- V23. -/
theorem test_draw :
    after (exec .draw { withBitmap tcS [.ok] with xpos := 1, ypos := 2, xsize := 3, ysize := 4, paddr := 0, plen := 3 })
      (fun t => t.out ==
        [⟨[0x0D, 0x12, 0x00, 0x01, 0x00, 0x02, 0x00, 0x03, 0x00, 0x04, 0x00, 0x00, 0x2A], some .ok⟩]) = true := by
  decide +kernel

/-- V27 and V28: the size check comes before the slice check. -/
theorem test_draw_slice : refusedAs (exec .draw { withBitmap tcS [.ok] with paddr := 46, plen := 3 }) .sliceOutsideFb = true := by
  decide +kernel
theorem test_draw_both : after (exec .draw { withBitmap tcS [.ok] with paddr := 46, plen := 7 })
    (fun t => t.errPkt && t.halt && t.out == []) = true := by decide +kernel

/-! ### STREAM, STREAMBUF -/

/-- V30 with SINK's answers of P4: a failed send does not stop the stream. -/
theorem test_stream : after (exec .stream (withBitmap tcS [.err, .ok]))
    (fun t => t.out ==
      [⟨[0x0D, 0x12, 0x00, 0x00, 0x00, 0x00, 0x00, 0x02, 0x00, 0x10, 0x00, 0x00, 0x2A, 0xDF], some .err⟩,
       ⟨[0x0D, 0x12, 0x00, 0x02, 0x00, 0x00, 0x00, 0x01, 0x00, 0x10, 0xDF, 0xFF], some .ok⟩] &&
      t.errSend && !t.busy) = true := by decide +kernel

/-- U11: SINK answers the first band and never the second; the operation waits with BUSY 1. -/
theorem test_stream_waits : after (exec .stream (withBitmap tcS [.ok]))
    (fun t => t.busy && t.waiting && t.k == 1) = true := by decide +kernel

/-- V34. -/
theorem test_streambuf : after (exec .streambuf { withBitmap tcS [.ok, .ok, .ok] with plen := 6 })
    (fun t => t.out ==
      [⟨[0x0D, 0x12, 0x00, 0x00, 0x00, 0x00, 0x00, 0x03, 0x00, 0x02, 0x00, 0x00], some .ok⟩,
       ⟨[0x0D, 0x12, 0x00, 0x01, 0x00, 0x00, 0x00, 0x03, 0x00, 0x02, 0x2A, 0xDF], some .ok⟩,
       ⟨[0x0D, 0x12, 0x00, 0x02, 0x00, 0x00, 0x00, 0x03, 0x00, 0x02, 0xDF, 0xFF], some .ok⟩]) = true := by decide +kernel

/-- V35: 4 does not divide 6. -/
theorem test_streambuf_unequal :
    refusedAs (exec .streambuf { withBitmap tcS [.ok] with plen := 6, parts := 4 }) .unequalParts = true := by decide +kernel

/-! ### Reserved numbers, packets, HOST's accesses -/

/-- 30_encoding.md R113, first sentence. -/
theorem test_reserved0 : exec .reserved0 (withBitmap tcS []) = .next (withBitmap tcS []) := rfl
theorem test_reserved7 : exec .reserved7 (withBitmap tcS []) = .next (withBitmap tcS []) := rfl

/-- V18, V20 and V21 as packets of FRM. -/
theorem test_pktDraw : after (exec (.pktDraw 0x0102 0xFFFF 0x8000 0x00FF [0x2A]) (start tcS [.ok]))
    (fun t => t.out == [⟨[0x0D, 0x12, 0x01, 0x02, 0xFF, 0xFF, 0x80, 0x00, 0x00, 0xFF, 0x2A], some .ok⟩] && !t.busy) = true := by
  decide +kernel
theorem test_pktClear : after (exec .pktClear (start tcS [.ok]))
    (fun t => t.out == [⟨[0x0C, 0x02, 0, 0, 0, 0, 0, 0, 0, 0], some .ok⟩]) = true := by decide +kernel
theorem test_pktSetBrightness : after (exec (.pktSetBrightness 0x80) (start tcS [.err]))
    (fun t => t.out == [⟨[0x0B, 0x07, 0, 0, 0, 0, 0, 0, 0, 0, 0x80], some .err⟩] && t.errSend) = true := by decide +kernel

/-- V25: a payload one byte too long is rejected, not truncated. -/
theorem test_pktDraw_too_large : after (exec (.pktDraw 0 0 0 0 (List.replicate 7 0)) (start tcS [.ok]))
    (fun t => t.out == [] && t.errPkt && t.halt) = true := by decide +kernel

/-- A state with HOST's next access queued. -/
def queued (s : State) (m : HostMove) : State := { s with host := [⟨m, none⟩] }

/-- A halted block with all three flags set and one datagram sent. -/
def halted : State :=
  { start tcS [] with halt := true, errDim := true, errPkt := true, errSend := true, xpos := 7
                      out := [⟨clearBytes, some .err⟩] }

/-- BRIGHT at work on level 80H, its packet not yet built. -/
def bright80 : State := (start tcS [.ok]).startFramer (.bright 0x80)

/-- 10_state.md R40: ones clear DIM and SEND, PKT stays; 60_exceptions.md R231: so does HALT. -/
theorem test_host_clears_err : after (step (queued halted (.write 2 7)))
    (fun t => !t.errDim && t.errPkt && !t.errSend && t.halt) = true := by decide +kernel

/-- 60_exceptions.md R230: CLEAR is ignored while HALT. -/
theorem test_host_op_while_halted : after (step (queued halted (.write 0 2)))
    (fun t => t.out == halted.out && !t.busy && t.halt) = true := by decide +kernel

/-- 70_reset_and_hazards.md R260, R263: reset clears the flags and the registers and keeps OUT. -/
theorem test_host_reset : after (step (queued halted .reset))
    (fun t => !t.halt && t.readReg 2 == 0 && t.xpos == 0 && t.parts == 3 && t.out == halted.out) = true := by decide +kernel

/-- 10_state.md R38, R41: the operation in progress sends the level it sampled; the register has the new one. -/
theorem test_host_write_while_busy : after (step (queued bright80 (.write 10 0x111)))
    (fun t => t.bright == 0x11 && t.out == [⟨[0x0B, 0x07, 0, 0, 0, 0, 0, 0, 0, 0, 0x80], some .ok⟩]) = true := by
  decide +kernel

/-- 30_encoding.md R114: CLEAR is ignored while BRIGHT runs, where HOST breaks its duty. -/
theorem test_host_op_while_busy : after (step { queued bright80 (.write 0 2) with dutiful := false })
    (fun t => t.out == [⟨[0x0B, 0x07, 0, 0, 0, 0, 0, 0, 0, 0, 0x80], some .ok⟩]) = true := by decide +kernel

/-- 60_exceptions.md R237: the two writes to OP that are refused; R230: CLEAR while HALT is defined. -/
theorem test_duty_op_while_busy : refusedAs (step (queued bright80 (.write 0 2))) .opWhileBusy = true := by decide +kernel
theorem test_duty_reserved : refusedAs (step (queued (start tcS []) (.write 0 15))) .reservedOperation = true := by
  decide +kernel
theorem test_duty_halted : after (step (queued halted (.write 0 7))) (fun t => t == halted) = true := by decide +kernel

/-- 20_memory.md R85, R70: FB while BUSY, and an address that does not exist (PIXELS is 48). -/
theorem test_host_fb_while_busy : refusedAs (step (queued bright80 (.fbWrite 0 1))) .fbWhileBusy = true := by decide +kernel
theorem test_host_fb_outside : faultedAs (step (queued (start tcS []) (.fbWrite 48 1))) .fbAddress = true := by
  decide +kernel

/-- 10_state.md R31, R39, R41: what HOST reads. -/
theorem test_host_fb_write : after (step (queued (start tcS []) (.fbWrite 47 0xA5))) (fun t => t.readFb 47 == 0xA5) = true := by
  decide +kernel
theorem test_host_fb_read : after (step (queued (withBitmap tcS []) (.fbRead 3))) (fun t => t.rdata == 0xDF) = true := by
  decide +kernel
theorem test_host_status : after (step (queued halted (.read 1))) (fun t => t.rdata == 2) = true := by decide +kernel

/-- A step runs the packet in TXBUF, and the operation HOST writes. -/
theorem test_step_packet : after (step ((start tcS [.ok]).withPacket clearBytes))
    (fun t => t.out == [⟨clearBytes, some .ok⟩] && !t.busy) = true := by decide +kernel
theorem test_fetchWord_reserved : after (step ((start tcS []).withFetchWord 8 0)) (fun t => !t.busy && t.out == []) = true := by
  decide +kernel
theorem test_step_fetchWord : after (step ((start tcS [.ok]).withFetchWord 8 2))
    (fun t => t.out == [⟨clearBytes, some .ok⟩] && !t.busy) = true := by decide +kernel

/-- The host's view of the decoder, on a row of group OP. -/
theorem test_table_streambuf : decodeTableWord 8 6 = some .streambuf := rfl

/-! ### Witnesses: for each obligation with hypotheses, a state and operands that meet them -/

theorem start_ready (c : Config) (sink : List Answer) : Ready (start c sink) := ⟨rfl, rfl, rfl, rfl, rfl, rfl, rfl⟩

theorem start_inv (c : Config) (sink : List Answer) : (start c sink).Inv where
  fbWf := List.Pairwise.nil
  fbBound := by simp [start, State.reset]
  accWf := List.Pairwise.nil
  accBound := by simp [start, State.reset]
  haltPkt := rfl
  haltIdle := by simp [start, State.reset]
  busyJob := by simp [start, State.reset]
  busyUnit := by simp [start, State.reset]
  dthJob := by simp [start, State.reset]
  rowRange := c.height_pos
  colRange := Nat.lt_of_lt_of_le (Nat.succ_pos 7) c.width_ge
  frm := by simp [FramerInv, start, State.reset]
  txBound := Nat.zero_le _
  txLenBound := by simp [start, State.reset]
  timerIdle := by simp [start, State.reset]
  outBound := by simp [start, State.reset]
  outPending := by simp [start, State.reset]

theorem withFrame_ready (c : Config) (bytes : List Byte) (sink : List Answer) : Ready (withFrame (start c sink) bytes) :=
  ⟨rfl, rfl, rfl, rfl, rfl, rfl, rfl⟩

theorem halted_inv : halted.Inv :=
  { start_inv tcS [] with
    haltPkt := rfl
    haltIdle := fun _ => rfl
    outBound := by decide
    outPending := by decide }

theorem bright80_inv : bright80.Inv :=
  { start_inv tcS [.ok] with
    haltIdle := by decide
    busyJob := by decide
    busyUnit := by decide
    dthJob := by decide
    frm := fun _ => by decide
    timerIdle := by decide
    outPending := by decide }

theorem witness_DecodeEncodeRoundTrip : (Instr.pktDraw 0xFFFF 0 1 2 [0, 1, 2, 3, 4, 5]).wf tcS = true := by decide
theorem witness_EncodeDecodeRoundTrip :
    decode tcSLittle .wire [0x07, 0x0B, 0, 0, 0, 0, 0, 0, 0, 0, 0xFF] = .ok (.pktSetBrightness 0xFF) := by decide
theorem witness_SpecWordsDecode : tcS.cmdDraw = 0x0D12 ∧ tcS.cmdClear = 0x0C02 ∧ tcS.cmdSetBrightness = 0x0B07 ∧
    tcS.hdrBigEndian = true ∧ 12 ≤ tcS.maxPacketSize := by decide
theorem witness_HeaderIsEightyBitValue : 9 < 10 ∧ 4 < 5 := by decide
theorem witness_OpNumberSelectsOperation : 0 < 8 ∧ 7 < 8 := by decide
theorem witness_StepRunsOperation :
    (queued halted (.write 0 2)).host = ⟨.write 0 2, none⟩ :: [] ∧
    ((queued halted (.write 0 7)).busy = false ∧ (queued halted (.write 0 7)).halt = true) ∧
    ({ queued bright80 (.write 0 0) with dutiful := false } : State).dutiful = false ∧
    ((queued bright80 (.write 0 2)).dutiful = true ∧ (queued bright80 (.write 0 2)).busy = true) ∧
    (let s := queued (start tcS []) (.write 0 15)
     s.dutiful = true ∧ s.busy = false ∧ s.halt = false ∧ 15 % 8 = 7 ∧ 14 % 8 ≠ 0 ∧ 14 % 8 ≠ 7) := by decide
theorem witness_StepRunsPacket :
    let s := (start tcS []).withPacket clearBytes
    s.host = [] ∧ s.busy = true ∧ s.stage = .handOver ∧ decode s.cfg .wire (s.txbuf.take s.txlen) = .ok .pktClear := by decide
theorem witness_StepRunsFetchWord : 8 ≠ 80 ∧
    decode tcS .wire (tablePacket tcS 0x0C020000000000000000) = .ok .pktClear ∧
    decode tcS .wire (tablePacket tcS 0x0B070000000000000000) = .ok (.pktSetBrightness 0) := by decide
theorem witness_BuildRejectsExactlyTooLarge :
    build tcS ⟨1, ⟨0, 0, 0, 0⟩, List.replicate 7 0⟩ = none ∧
    (build tcS ⟨1, ⟨0, 0, 0, 0⟩, List.replicate 6 0⟩).isSome = true ∧
    (List.replicate 6 (0 : Byte)).length = tcS.maxPacketSize - 10 := by decide

theorem witness_ClearSendsOnePacket : Ready (start tcS [.err]) ∧ (start tcS [.err]).sink = .err :: [] := ⟨start_ready _ _, rfl⟩
theorem witness_BrightSendsOnePacket : Ready (start tcS [.ok]) ∧ (start tcS [.ok]).sink = .ok :: [] ∧
    11 ≤ (start tcS [.ok]).cfg.maxPacketSize := ⟨start_ready _ _, rfl, by decide⟩
theorem witness_BrightHaltsWhenLimitIsTen : Ready (start tcSTen []) ∧ (start tcSTen []).cfg.maxPacketSize = 10 :=
  ⟨start_ready _ _, rfl⟩

/-- A block with a slice of FB named, in parts. -/
def slice (paddr plen : Word) (parts : Half) (sink : List Answer) : State :=
  { start tcS sink with paddr := paddr, plen := plen, parts := parts }

theorem slice_ready (paddr plen : Word) (parts : Half) (sink : List Answer) : Ready (slice paddr plen parts sink) :=
  ⟨rfl, rfl, rfl, rfl, rfl, rfl, rfl⟩

/-- The largest packet, up to the last byte of FB. -/
theorem witness_DrawSendsItsSlice :
    let s := slice 42 6 1 [.ok]
    Ready s ∧ s.sink = .ok :: [] ∧ 10 + s.plen.toNat ≤ s.cfg.maxPacketSize ∧ s.paddr.toNat + s.plen.toNat ≤ s.cfg.pixels :=
  ⟨slice_ready _ _ _ _, rfl, by decide, by decide⟩

/-- One byte too long; and fitting, one byte too far. -/
theorem witness_DrawChecksSizeThenSlice :
    (let s := slice 0 7 1 []
     s.busy = false ∧ s.halt = false ∧ s.cfg.maxPacketSize < 10 + s.plen.toNat) ∧
    (let s := slice 43 6 1 []
     s.busy = false ∧ s.halt = false ∧ 10 + s.plen.toNat ≤ s.cfg.maxPacketSize ∧
       s.cfg.pixels < s.paddr.toNat + s.plen.toNat) := by decide

theorem witness_StreamSendsEveryBand :
    let s := start tcS [.err, .ok]
    Ready s ∧ [Answer.err, .ok].length = s.cfg.bands ∧ s.sink = [.err, .ok] ++ [] ∧
      10 + min s.cfg.bandRows s.cfg.height * s.cfg.rowBytes ≤ s.cfg.maxPacketSize :=
  ⟨start_ready _ _, by decide, rfl, by decide⟩

/-- Both clauses: TC-S with limits of 10 and of 16 bytes; a band of it has 4 bytes. -/
theorem witness_StreamTooLargeBeforeAnyDatagram :
    (Ready (start tcSTen []) ∧ tcSTen.maxPacketSize < 10 + min tcSTen.bandRows tcSTen.height * tcSTen.rowBytes) ∧
    (Ready (start tcS []) ∧ 10 + min tcS.bandRows tcS.height * tcS.rowBytes ≤ tcS.maxPacketSize ∧ 1 < tcS.bands ∧
      ∃ t, exec .stream (start tcS []) = .next t) :=
  ⟨⟨start_ready _ _, by decide⟩, start_ready _ _, by decide, by decide, _, rfl⟩

/-- The full band and the shorter last band. -/
theorem witness_BandsAreWholeRowsOfTheBitmap : 0 + 1 < tcS.bands ∧ 1 + 1 = tcS.bands := by decide
theorem witness_BandFieldsTileTheHeight :
    0 < 1 ∧ 1 < tcS.bands ∧ tcS.bandFields = defaultBandFields tcS.width tcS.height tcS.bandRows := by decide

theorem witness_StreambufSendsEqualParts :
    let s := slice 42 6 3 [.ok, .err, .ok]
    Ready s ∧ 1 ≤ s.parts.toNat ∧ s.plen.toNat = s.parts.toNat * 2 ∧ 10 + 2 ≤ s.cfg.maxPacketSize ∧
      s.paddr.toNat + s.plen.toNat ≤ s.cfg.pixels ∧ [Answer.ok, .err, .ok].length = s.parts.toNat ∧
      s.sink = [.ok, .err, .ok] ++ [] :=
  ⟨slice_ready _ _ _ _, by decide, by decide, by decide, by decide, by decide, rfl⟩

/-- PARTS = 0; a remainder; a part one byte too long; a slice one byte too far. -/
theorem witness_StreambufChecksInOrder :
    (slice 0 6 0 []).parts.toNat = 0 ∧
    (slice 0 6 4 []).plen.toNat % (slice 0 6 4 []).parts.toNat ≠ 0 ∧
    (let s := slice 0 14 2 []
     s.busy = false ∧ s.halt = false ∧ 1 ≤ s.parts.toNat ∧ s.plen.toNat % s.parts.toNat = 0 ∧
       s.cfg.maxPacketSize < 10 + s.plen.toNat / s.parts.toNat) ∧
    (let s := slice 37 12 2 []
     1 ≤ s.parts.toNat ∧ s.plen.toNat % s.parts.toNat = 0 ∧ 10 + s.plen.toNat / s.parts.toNat ≤ s.cfg.maxPacketSize ∧
       s.cfg.pixels < s.paddr.toNat + s.plen.toNat) := by decide

theorem witness_PacketRowsSendThemselves :
    let i := Instr.pktDraw 1 2 3 4 [0, 1, 2, 3, 4, 5]
    Ready (start tcS [.ok]) ∧ (start tcS [.ok]).sink = .ok :: [] ∧ i.space = .wire ∧ i.wf (start tcS [.ok]).cfg = true :=
  ⟨start_ready _ _, rfl, rfl, by decide⟩
theorem witness_PacketRowsAreRejectedNotTruncated :
    (Instr.pktSetBrightness 1).space = .wire ∧ (Instr.pktSetBrightness 1).wf (start tcSTen []).cfg = false := by decide

theorem witness_ReservedNumbersChangeNothing : halted.busy = false := rfl
theorem witness_OperationsIgnoredWhileHalted : halted.halt = true ∧ halted.busy = false ∧ Instr.draw.space = .opReg := by decide
theorem witness_OperationsIgnoredWhileBusy : bright80.busy = true ∧ Instr.reserved0.space = .opReg := by decide

/-- Both cases: a write to OP, and the reset input. -/
theorem witness_HaltLeftOnlyByReset :
    (queued halted (.write 0 2)).Inv ∧ (queued halted (.write 0 2)).halt = true ∧
    (∃ t, step (queued halted (.write 0 2)) = .next t) ∧ ∃ t, step (queued halted .reset) = .next t ∧ t.halt = false :=
  ⟨{ halted_inv with }, rfl, ⟨_, rfl⟩, _, rfl, rfl⟩

/-- DITHER in phase LOAD. -/
def loading : State := (withFrame (start tc8x2 []) (List.replicate 16 77)).startDither

theorem witness_LoadCopiesThenZeroes :
    loading.stage = .idle ∧ loading.phase = .load ∧ 15 < loading.cfg.pixels ∧ 1 < loading.cfg.bmpBytes ∧
      loading.cfg.bmpBytes ≤ 2 := by decide
theorem witness_PixelSetsItsBit : 0 < 8 ∧ 7 < 8 := by decide
theorem witness_PixelDiffusesItsError : 1 < tc8x2.height ∧ 7 < tc8x2.width := by decide

/-- The first pixel, the end of a row, and the last pixel. -/
theorem witness_ScanVisitsPixelsInRasterOrder : (start tc8x2 []).stage = .idle ∧ 0 < tc8x2.pixels ∧ 7 < tc8x2.pixels ∧
    15 < tc8x2.pixels ∧ 14 + 1 < tc8x2.pixels := by decide
theorem witness_AccumulatorStaysInRange :
    let s := withFrame (start tc8x2 []) (List.replicate 16 77)
    s.stage = .idle ∧ (runFor 1 s.startDither).phase = .scan ∧ (runFor 16 s.startDither).phase = .scan := by decide +kernel
theorem witness_DitherIsDitherFn :
    let s := withFrame (start tc8x2 []) (List.replicate 16 77)
    Ready s ∧ s.fbLen.toNat = s.cfg.pixels := ⟨withFrame_ready _ _ _, by decide⟩
theorem witness_DitherRejectsWrongLength :
    let s := withFrame (start tc8x2 []) (List.replicate 15 77)
    s.busy = false ∧ s.halt = false ∧ s.fbLen.toNat ≠ s.cfg.pixels := by decide

/-- Two machines that differ in a flag, in SINK and in a register, not in the frame. -/
theorem witness_DitherDependsOnFrameOnly :
    let s := withFrame (start tc8x2 []) (List.replicate 16 77)
    let s' := { withFrame (start tc8x2 [.err]) (List.replicate 16 77) with errSend := true, xpos := 3 }
    Ready s ∧ Ready s' ∧ s.cfg.width = s'.cfg.width ∧ s.cfg.height = s'.cfg.height ∧ s.cfg.threshold = s'.cfg.threshold ∧
      s.fbLen.toNat = s.cfg.pixels ∧ s'.fbLen.toNat = s'.cfg.pixels ∧ ∀ a < s.cfg.pixels, s.readFb a = s'.readFb a :=
  ⟨withFrame_ready _ _ _, ⟨rfl, rfl, rfl, rfl, rfl, rfl, rfl⟩, rfl, rfl, rfl, by decide, by decide, fun _ _ => rfl⟩
theorem witness_ExtremeFramesGiveExtremeBitmaps :
    (let s := withFrame (start tc8x1 []) (List.replicate 8 0)
     Ready s ∧ s.fbLen.toNat = s.cfg.pixels ∧ ∀ a < s.cfg.pixels, s.readFb a = 0) ∧
    (let s := withFrame (start tc8x1 []) (List.replicate 8 255)
     Ready s ∧ s.fbLen.toNat = s.cfg.pixels ∧ ∀ a < s.cfg.pixels, s.readFb a = 255) :=
  ⟨⟨withFrame_ready _ _ _, by decide, by decide +kernel⟩, withFrame_ready _ _ _, by decide, by decide +kernel⟩

/-- An operation of each kind of end, with the flags set before; and a packet row while a packet is at work. -/
theorem witness_FramerOperationsKeepTheirFrame :
    (start tcS []).busy = false ∧ Instr.stream ∈ [Instr.clear, .bright, .draw, .stream, .streambuf] ∧
    (∃ t, exec .stream (start tcS []) = .next t) ∧ (∃ t, exec .bright (start tcSTen []) = .next t ∧ t.halt = true) ∧
    (∃ t, exec .draw halted = .next t ∧ t.errSend = true ∧ t.errPkt = true ∧ t.halt = true) ∧
    Instr.pktClear.space = .wire ∧ ∃ t, exec .pktClear ((start tcS [.ok]).withPacket clearBytes) = .next t :=
  ⟨rfl, by decide, ⟨_, rfl⟩, ⟨_, rfl, rfl⟩, ⟨_, rfl, rfl, rfl, rfl⟩, rfl, _, rfl⟩

/-- A declared length that fits, and one that does not. -/
theorem witness_DitherKeepsItsFrame :
    (let s := withFrame (start tc8x1 []) (List.replicate 8 77)
     s.busy = false ∧ s.stage = .idle ∧ s.fbLen.toNat = s.cfg.pixels ∧ ∃ t, exec .dither s = .next t) ∧
    (let s := withFrame (start tc8x1 []) (List.replicate 7 77)
     s.busy = false ∧ s.stage = .idle ∧ s.fbLen.toNat ≠ s.cfg.pixels ∧ ∃ t, exec .dither s = .next t) :=
  ⟨⟨rfl, rfl, by decide, _, rfl⟩, rfl, rfl, by decide, _, rfl⟩

/-- The first and the last register with a width, two different indices, and indices that hold nothing; HOST's write and
read. -/
theorem witness_RegistersReadBack :
    (3, 32) ∈ [(3, 32), (4, 16), (5, 16), (6, 16), (7, 16), (8, 32), (9, 32), (10, 8), (11, 16)] ∧
    (11, 16) ∈ [(3, 32), (4, 16), (5, 16), (6, 16), (7, 16), (8, 32), (9, 32), (10, 8), (11, 16)] ∧ 2 ≠ 3 ∧ 12 ≤ 12 ∧
    (queued bright80 (.write (10 + 1) 5)).host = [⟨.write (10 + 1) 5, none⟩] ∧
    (queued bright80 (.read 11)).host = [⟨.read 11, none⟩] := by decide
theorem witness_ErrIsWriteOneToClear :
    (queued halted (.write 2 7)).host = [⟨.write 2 7, none⟩] ∧ (queued bright80 (.write 2 5)).host = [⟨.write 2 5, none⟩] := by
  decide
theorem witness_StatusAndErrWords : (queued halted (.read 2)).host = [⟨.read 2, none⟩] := rfl
theorem witness_RunningOperationDoesNotSeeRegisterWrites : (10 : Nat) ≠ 2 ∧ bright80.active = true ∧ (9 : Nat) ≠ 1 ∧
    (queued bright80 (.write (9 + 1) 0x11)).host = [⟨.write (9 + 1) 0x11, none⟩] := by decide
theorem witness_HostFbPort :
    (start tcS []).busy = false ∧ 47 < (start tcS []).cfg.pixels ∧ (start tcS []).cfg.pixels ≤ 48 ∧ bright80.busy = true := by
  decide
theorem witness_ResetInputRestoresResetValues : (queued halted .reset).host = ⟨.reset, none⟩ :: [] := rfl

/-- The block alone, at work, and HOST's write to OP. -/
theorem witness_StepKeepsInvariant :
    (bright80.Inv ∧ ∃ t, step bright80 = .next t) ∧
    (queued (start tcS [.ok]) (.write 0 2)).Inv ∧ ∃ t, step (queued (start tcS [.ok]) (.write 0 2)) = .next t :=
  ⟨⟨bright80_inv, _, rfl⟩, { start_inv tcS [.ok] with }, _, rfl⟩
/-- A block with a datagram sent and a packet about to be; a packet of each kind. -/
theorem witness_EveryDatagramIsAPacketOfTheBlock :
    (let s := { (start tcS [.ok]).withPacket clearBytes with out := [⟨clearBytes, some .err⟩] }
     s.PacketInv ∧ ∃ t, step s = .next t) ∧
    IsPacket tcS clearBytes ∧ IsPacket tcS [0x0B, 0x07, 0, 0, 0, 0, 0, 0, 0, 0, 0x80] ∧
    IsPacket tcS [0x0D, 0x12, 0, 0, 0, 0, 0, 0, 0, 0] := by
  refine ⟨⟨⟨fun e he => ?_, fun _ => ⟨.pktClear, by decide⟩⟩, _, rfl⟩, ⟨.pktClear, by decide⟩,
    ⟨.pktSetBrightness 0x80, by decide⟩, .pktDraw 0 0 0 0 [], by decide⟩
  cases List.mem_singleton.mp he
  exact ⟨.pktClear, (by decide : decode tcS .wire clearBytes = .ok .pktClear)⟩
theorem witness_ConfigurationNeverChanges : ∃ t, step bright80 = .next t := ⟨_, rfl⟩
theorem witness_OutOnlyGrows : ∃ t, step (queued halted .reset) = .next t ∧ halted.out ≠ [] := ⟨_, rfl, by decide⟩
theorem witness_FlagsAreSticky :
    let s := queued halted (.write 3 7)
    (∃ t, step s = .next t) ∧ (∀ e rest, s.host = e :: rest → e.move ≠ .reset ∧ ∀ v, e.move ≠ .write 2 v) ∧
      s.errDim = true ∧ s.errPkt = true ∧ s.errSend = true := by
  refine ⟨⟨_, rfl⟩, fun e rest h => ?_, rfl, rfl, rfl⟩
  cases h
  exact ⟨by simp, by simp⟩
theorem witness_EveryOperationEndsOrWaits :
    (bright80.Inv ∧ bright80.window = none) ∧
    let s := { bright80 with sink := [] }
    s.Inv ∧ s.window = none ∧ s.settle.busy = true :=
  ⟨⟨bright80_inv, rfl⟩, { bright80_inv with }, rfl, by decide +kernel⟩
theorem witness_SilentSinkKeepsBusy : Ready (start tcS []) ∧ (start tcS []).sink = [] := ⟨start_ready _ _, rfl⟩

theorem witness_FailedSendOnlySetsErrSend :
    ({ bright80 with stage := .await, out := [⟨clearBytes, none⟩] } : State).stage = .await := rfl

/-- The first of STREAM's two packets answered, and the second. -/
theorem witness_PacingBetweenPackets :
    (let s := { (start tcS [.ok]).startFramer .stream with stage := .await }
     s.stage = .await ∧ s.sink = .ok :: [] ∧ s.k + 1 < s.packets) ∧
    (let s := { (start tcS [.ok]).startFramer .stream with stage := .await, k := 1 }
     s.stage = .await ∧ s.sink = .ok :: [] ∧ s.packets ≤ s.k + 1) := by decide

/-- Nine bytes, and ten and more with each code. -/
theorem witness_ParserTakesTheClosedCommandSet :
    (List.replicate 9 (0 : Byte)).length < 10 ∧ 10 ≤ clearBytes.length ∧ parsePacket tcS clearBytes = .ok (.clear ⟨0, 0, 0, 0⟩) ∧
    decode tcS .wire clearBytes = .ok .pktClear := by decide

/-- A write to OP while BUSY, while HALT, of a reserved number; FB while BUSY; a step. -/
theorem witness_StepRefusesBreachesOfHostDuty :
    ((queued bright80 (.write 0 2)).dutiful = true ∧ (queued bright80 (.write 0 2)).busy = true) ∧
    ((queued halted (.write 0 0)).busy = false ∧ (queued halted (.write 0 0)).halt = true) ∧
    (let s := queued (start tcS []) (.write 0 7)
     s.host = [⟨.write 0 7, none⟩] ∧ s.dutiful = true ∧ s.busy = false ∧ s.halt = false ∧ 7 % 8 = 7) ∧
    (queued bright80 (.fbWrite 0 1)).host = [⟨.fbWrite 0 1, none⟩] ∧
    ∃ t, step (queued (start tcS []) (.write 0 2)) = .next t :=
  ⟨⟨rfl, rfl⟩, ⟨rfl, rfl⟩, by decide, rfl, _, rfl⟩

end Sys2Proof.Tests
end

section
/-! Proofs of the family 00_scope.md: what an instruction, an access of HOST and a step can do, said once; that all of them
keep the configuration (R17, R263); and the rounding of the error terms (R19). -/

namespace Sys2Proof.Machine

/-! ### What an instruction can do -/

variable {s t : State}

/-- Every next state an instruction can have, with the conditions under which it has it. -/
inductive Executed (i : Instr) (s : State) : State → Prop where
  /-- An operation number that is ignored: the operation in progress goes on (30_encoding.md R113, R114). -/
  | ignored (space : i.space = .opReg) (why : s.busy = true ∨ s.halt = true ∨ isReserved i = true) :
      Executed i s s.settle
  /-- DITHER with a wrong length (40_dither.md R131). -/
  | wrongLength (busy : s.busy = false) (halt : s.halt = false) (op : i = .dither) (len : s.fbLen.toNat ≠ s.cfg.pixels) :
      Executed i s (s.raise .invalidDimensions)
  /-- DITHER issued. -/
  | dither (busy : s.busy = false) (halt : s.halt = false) (op : i = .dither) (len : s.fbLen.toNat = s.cfg.pixels) :
      Executed i s s.startDither.settle
  /-- DRAW or STREAMBUF whose packets do not fit (41_framer.md R171). -/
  | tooLarge (busy : s.busy = false) (halt : s.halt = false) (space : i.space = .opReg) :
      Executed i s (s.raise .packetTooLarge)
  /-- An operation of FRM issued: it has a packet to send. -/
  | framer (job : Job) (busy : s.busy = false) (halt : s.halt = false) (space : i.space = .opReg) (kind : job ≠ .dither)
      (sends : 1 ≤ job.packets s.cfg) : Executed i s (s.startFramer job).settle
  /-- A packet row that does not fit (41_framer.md R161). -/
  | packetTooLarge (space : i.space = .wire) (wf : i.wf s.cfg = false) : Executed i s (s.raise .packetTooLarge)
  /-- A packet row handed over: the encoding of the instruction (41_framer.md R160, R164). -/
  | packet (alone : Job) (space : i.space = .wire) (wf : i.wf s.cfg = true) (kind : alone ≠ .dither)
      (one : alone.packets s.cfg = 1) :
      Executed i s ((s.engage alone).loadTx (encode s.cfg i)).handOver.settle

/-- A write to OP is ignored or does what it does in a ready block (10_state.md R38). -/
theorem State.issue_cases {body : Host.Outcome State Fault Refusal} (h : s.issue body = .next t) :
    ((s.busy = true ∨ s.halt = true) ∧ t = s.settle) ∨ (s.busy = false ∧ s.halt = false ∧ body = .next t) := by
  by_cases hi : s.busy = true ∨ s.halt = true
  · rw [s.issue_ignored hi] at h
    cases h
    exact .inl ⟨hi, rfl⟩
  · obtain ⟨hb, hh⟩ : s.busy = false ∧ s.halt = false := by simpa using hi
    rw [s.issue_ready hb hh] at h
    exact .inr ⟨hb, hh, h⟩

/-- An operation number is ignored, or does what its body does in a ready block. -/
theorem Executed.of_issue {i : Instr} {body : Host.Outcome State Fault Refusal} (space : i.space = .opReg)
    (hbody : s.busy = false → s.halt = false → body = .next t → Executed i s t) (h : s.issue body = .next t) :
    Executed i s t := by
  obtain ⟨hi, rfl⟩ | ⟨hb, hh, h⟩ := State.issue_cases h
  · exact .ignored space (hi.imp_right .inl)
  · exact hbody hb hh h

/-- FRM given the command whose packet is the instruction's encoding: too large, or handed over. -/
theorem Executed.of_send {i : Instr} {m : Command} {alone : Job} (space : i.space = .wire)
    (hp : i.payload = m.payload) (he : encode s.cfg i = encodeHeader s.cfg.hdrBigEndian m.cmd m.fields ++ m.payload)
    (kind : alone ≠ .dither) (one : alone.packets s.cfg = 1) : Executed i s (s.send m alone) := by
  by_cases hw : headerSize + m.payload.length ≤ s.cfg.maxPacketSize
  · simp only [State.send, build_eq_some _ _ hw, ← he]
    exact .packet alone space (by simpa [Instr.wf, hp] using hw) kind one
  · simp only [State.send, build_eq_none _ _ (Nat.lt_of_not_le hw)]
    exact .packetTooLarge space (by simpa [Instr.wf, hp] using hw)

/-- The next state of an instruction is one of those that `Executed` lists. -/
theorem executed_of_exec {i : Instr} (h : exec i s = .next t) : Executed i s t := by
  cases i with
  | pktDraw x y w hgt payload => cases h; exact .of_send rfl rfl rfl nofun rfl
  | pktClear => cases h; exact .of_send rfl rfl (List.append_nil _).symm nofun rfl
  | pktSetBrightness level => cases h; exact .of_send rfl rfl rfl nofun rfl
  | reserved0 => cases h; exact .ignored rfl (.inr (.inr rfl))
  | reserved7 => cases h; exact .ignored rfl (.inr (.inr rfl))
  | dither =>
    refine .of_issue rfl (fun hb hh h => ?_) h
    split at h <;> cases h
    · exact .wrongLength hb hh rfl (by assumption)
    · exact .dither hb hh rfl (by omega)
  | clear =>
    refine .of_issue rfl (fun hb hh h => ?_) h
    cases h
    exact .framer .clear hb hh rfl nofun (Nat.le_refl 1)
  | bright =>
    refine .of_issue rfl (fun hb hh h => ?_) h
    cases h
    exact .framer s.sampleBright hb hh rfl nofun (Nat.le_refl 1)
  | draw =>
    refine .of_issue rfl (fun hb hh h => ?_) h
    split at h
    · cases h; exact .tooLarge hb hh rfl
    · split at h <;> cases h
      exact .framer s.sampleDraw hb hh rfl nofun (Nat.le_refl 1)
  | stream =>
    refine .of_issue rfl (fun hb hh h => ?_) h
    cases h
    exact .framer .stream hb hh rfl nofun s.cfg.bands_pos
  | streambuf =>
    refine .of_issue rfl (fun hb hh h => ?_) h
    split at h
    · cases h
    · split at h
      · cases h
      · split at h
        · cases h; exact .tooLarge hb hh rfl
        · split at h <;> cases h
          exact .framer s.sampleStreambuf hb hh rfl nofun (Nat.pos_of_ne_zero (by assumption))

/-! ### What a step can do -/

/-- Every next state an access of HOST can have, with the conditions under which it has it. -/
inductive HostMoved (s : State) : HostMove → State → Prop where
  | op (value : Nat) {t : State} (duty : s.opBreach value = none) (run : Executed (decodeOp value) s t) :
      HostMoved s (.write 0 value) t
  | write (index value : Nat) : HostMoved s (.write (index + 1) value) (s.writeReg (index + 1) value).settle
  | read (index : Nat) : HostMoved s (.read index) (s.hostRead index).settle
  | fbWrite (addr : Nat) (value : Byte) (busy : s.busy = false) (bound : addr < s.cfg.pixels) :
      HostMoved s (.fbWrite addr value) (s.writeFb addr value)
  | fbRead (addr : Nat) (busy : s.busy = false) (bound : addr < s.cfg.pixels) :
      HostMoved s (.fbRead addr) { s with rdata := (s.readFb addr).toNat }
  | reset : HostMoved s .reset s.resetInput

/-- The FB port has a step only while BUSY is 0 and where FB exists (20_memory.md R70, R85). -/
theorem fbPort_next {busy : Bool} {p : Prop} [Decidable p] {u : State} {r : Refusal} {f : Fault}
    (h : (if busy then .refused r else if p then .fault f else .next u : Host.Outcome State Fault Refusal) = .next t) :
    busy = false ∧ ¬ p ∧ t = u := by
  split at h
  · cases h
  · split at h <;> cases h
    exact ⟨by simpa using ‹¬ busy = true›, ‹¬ p›, rfl⟩

/-- The next state of an access is one of those that `HostMoved` lists. -/
theorem hostMoved_of_hostMove {m : HostMove} (h : s.hostMove m = .next t) : HostMoved s m t := by
  cases m with
  | write index value =>
    cases index with
    | zero =>
      cases hd : s.opBreach value with
      | none =>
        rw [hostMove_write_op hd] at h
        exact .op value hd (executed_of_exec h)
      | some r =>
        rw [hostMove_write_op_refused hd] at h
        cases h
    | succ index => cases h; exact .write index value
  | read index => cases h; exact .read index
  | fbWrite addr value =>
    obtain ⟨hb, hp, rfl⟩ := fbPort_next h
    exact .fbWrite addr value hb (Nat.lt_of_not_le hp)
  | fbRead addr =>
    obtain ⟨hb, hp, rfl⟩ := fbPort_next h
    exact .fbRead addr hb (Nat.lt_of_not_le hp)
  | reset => cases h; exact .reset

/-- The block alone executes the packet in TXBUF, or goes on with the operation in progress. -/
theorem State.blockMove_cases (h : s.blockMove = .next t) :
    (∃ i, s.pendingPacket = some i ∧ Executed i s t) ∨ (s.pendingPacket = none ∧ t = s.settle) := by
  unfold State.blockMove at h
  split at h
  · exact .inl ⟨_, by assumption, executed_of_exec h⟩
  · cases h
    exact .inr ⟨by assumption, rfl⟩

/-- Everything a step can do: HOST's next access, or without one the packet in TXBUF or the operation in progress. -/
theorem step_cases (h : step s = .next t) :
    (∃ m w rest, s.host = ⟨m, w⟩ :: rest ∧ HostMoved (s.schedule rest w) m t) ∨
    (s.host = [] ∧ ∃ i, (s.schedule [] none).pendingPacket = some i ∧ Executed i (s.schedule [] none) t) ∨
    (s.host = [] ∧ (s.schedule [] none).pendingPacket = none ∧ t = (s.schedule [] none).settle) := by
  cases hq : s.host with
  | nil =>
    rw [step_alone hq] at h
    exact .inr ((State.blockMove_cases h).imp (⟨rfl, ·⟩) (⟨rfl, ·⟩))
  | cons e rest =>
    rw [step_host hq] at h
    exact .inl ⟨e.move, e.window, rest, rfl, hostMoved_of_hostMove h⟩

/-! ### The configuration is kept (00_scope.md R17, 70_reset_and_hazards.md R263) -/

@[simp] theorem State.raise_cfg (e : Error) : (s.raise e).cfg = s.cfg := by cases e <;> rfl

@[simp] theorem State.advance_cfg : s.advance.cfg = s.cfg := by
  by_cases h : s.stage = .idle
  · exact (s.frame_advance_dither h).outside.1
  · exact (s.frame_advance h).outside.1

@[simp] theorem runFor_cfg (n : Nat) : (runFor n s).cfg = s.cfg :=
  runFor_induct s (fun t => t.cfg = s.cfg) (fun _ ht _ => State.advance_cfg.trans ht) n rfl

@[simp] theorem State.settle_cfg : s.settle.cfg = s.cfg := by
  obtain ⟨n, hn⟩ := s.settle_eq_run
  rw [hn, runFor_cfg]

theorem Executed.cfg {i : Instr} (h : Executed i s t) : t.cfg = s.cfg := by
  cases h <;> simp

theorem HostMoved.cfg {m : HostMove} (h : HostMoved s m t) : t.cfg = s.cfg := by
  cases h with
  | op value duty run => exact run.cfg
  | fbRead addr busy bound => rfl
  | _ => simp

/-- Settles O51: each of the next states a step can have is reached by updates that keep the configuration. -/
theorem configurationNeverChanges : Obligations.ConfigurationNeverChanges := by
  intro s t h
  obtain ⟨m, w, rest, -, hm⟩ | ⟨-, i, -, hi⟩ | ⟨-, -, rfl⟩ := step_cases h
  · exact hm.cfg
  · exact hi.cfg
  · exact State.settle_cfg

/-! ### The rounding of the error terms (00_scope.md R19, 40_dither.md R138) -/

/-- On a dividend that is not negative, truncation is the floor. -/
theorem quot_of_nonneg {a : Int} (h : 0 ≤ a) (b : Int) : quot a b = a / b := Int.tdiv_eq_ediv_of_nonneg h

/-- Truncation is odd in the dividend. -/
theorem quot_neg (a b : Int) : quot (-a) b = -quot a b := Int.neg_tdiv a b

/-- Truncation toward zero: the floor of the magnitude, with the dividend's sign. -/
theorem quot_eq_signed_floor (a b : Int) : quot a b = if 0 ≤ a then a / b else -((-a) / b) := by
  split
  · exact quot_of_nonneg (by assumption) b
  · rw [← quot_of_nonneg (by omega), quot_neg, neg_neg]

/-- Settles O29: truncation is the floor up to the sign, and a term divides the product once. -/
theorem errorTermsTruncateTowardZero : Obligations.ErrorTermsTruncateTowardZero :=
  ⟨fun a b _ => quot_eq_signed_floor a b, fun _ _ => rfl, by decide⟩

end Sys2Proof.Machine
end

section
/-! Proofs of the family 10_state.md: the invariant of the machine holds at reset, and every block step, every access of HOST
and every instruction keeps it. -/

namespace Sys2Proof

theorem Config.width_pos (c : Config) : 0 < c.width := Nat.lt_of_lt_of_le (Nat.succ_pos 7) c.width_ge

theorem Laws.Encoded.statement : ∀ i : Instr, Laws.Encoded.Statement i
  | .pktDraw x y w h payload => pktDraw x y w h payload
  | .pktClear => pktClear
  | .pktSetBrightness level => pktSetBrightness level
  | .reserved0 => reserved0
  | .dither => dither
  | .clear => clear
  | .bright => bright
  | .draw => draw
  | .stream => stream
  | .streambuf => streambuf
  | .reserved7 => reserved7

namespace Machine

variable {s t : State}

/-! ### Runs -/

/-- What every step of an active block keeps, the run to HOST's next access keeps. -/
theorem State.settle_induct (P : State → Prop) (step : ∀ t, P t → t.active = true → P t.advance) (h : P s) :
    P s.settle := by
  obtain ⟨n, hn⟩ := s.settle_eq_run
  rw [hn]
  exact runFor_induct s P step n h

/-- An active block is busy. -/
theorem State.busy_of_active (h : s.active = true) : s.busy = true := (Bool.and_eq_true_iff.mp h).1

/-! ### OUT (10_state.md R44) -/

/-- SINK's answer rewrites no datagram. -/
theorem map_bytes_answerLast (a : Answer) (es : List Sent) :
    (answerLast a es).map Sent.bytes = es.map Sent.bytes := by
  induction es with
  | nil => rfl
  | cons e es ih =>
    cases es with
    | nil => rfl
    | cons e' es => simpa [answerLast] using ih

/-- An answered datagram is one that was there before. -/
theorem mem_answerLast {a : Answer} {es : List Sent} {e : Sent} (h : e ∈ answerLast a es) :
    ∃ e' ∈ es, e'.bytes = e.bytes := by
  have h : e.bytes ∈ (answerLast a es).map Sent.bytes := List.mem_map_of_mem h
  rw [map_bytes_answerLast] at h
  exact List.mem_map.mp h

theorem answerLast_eq_nil_iff {a : Answer} {es : List Sent} : answerLast a es = [] ↔ es = [] := by
  rw [← List.map_eq_nil_iff (f := Sent.bytes), map_bytes_answerLast, List.map_eq_nil_iff]

/-! ### The memories under DITHER -/

/-- A memory in canonical form with no address from `n` on. -/
def Memory.Within {α : Type} (m : List (Nat × α)) (n : Nat) : Prop := Memory.wf m ∧ ∀ e ∈ m, e.1 < n

section
variable {α : Type} {m : List (Nat × α)} {n : Nat}

theorem Memory.Within.nil : Memory.Within ([] : List (Nat × α)) n := ⟨Memory.wf_nil, nofun⟩

theorem Memory.Within.put (h : Memory.Within m n) {a : Nat} (ha : a < n) (v : α) :
    Memory.Within (Memory.put m a v) n := by
  refine ⟨Memory.wf_put h.1 a v, fun e he => ?_⟩
  obtain rfl | he := Memory.mem_put he
  · exact ha
  · exact h.2 e he

theorem Memory.Within.below (h : Memory.Within m n) (k : Nat) : Memory.Within (Memory.below m k) n :=
  ⟨Memory.wf_below h.1 k, fun e he => h.2 e (Memory.mem_below he).1⟩

theorem Memory.within_fill (n : Nat) (f : Nat → α) : Memory.Within (Memory.fill n f) n :=
  ⟨Memory.wf_fill n f, fun _ => Memory.mem_fill⟩

theorem Memory.Within.fill_above (h : Memory.Within m n) {k : Nat} (hk : k ≤ n) (f : Nat → α) :
    Memory.Within (Memory.fill k f ++ Memory.above m k) n := by
  refine ⟨Memory.wf_fill_above h.1 k f, fun e he => ?_⟩
  obtain he | he := List.mem_append.mp he
  · exact Nat.lt_of_lt_of_le (Memory.mem_fill he) hk
  · exact h.2 e (Memory.mem_above he).1

end

@[simp] theorem State.packBit_acc (bit : Bool) (r c : Nat) : (s.packBit bit r c).acc = s.acc := by
  rw [s.packBit_eq]; rfl

@[simp] theorem State.diffuse_fb (inside : Bool) (i : Nat) (e : Int) : (s.diffuse inside i e).fb = s.fb := by
  rw [s.diffuse_eq]; rfl

theorem State.packBit_within {n r c : Nat} (h : Memory.Within s.fb n) (ha : r * s.cfg.rowBytes + c / 8 < n) (bit : Bool) :
    Memory.Within (s.packBit bit r c).fb n := by
  unfold State.packBit
  dsimp only
  split
  · exact h.put ha _
  · exact h

theorem State.diffuse_within {n i : Nat} {inside : Bool} (h : Memory.Within s.acc n) (hi : inside = true → i < n)
    (e : Int) : Memory.Within (s.diffuse inside i e).acc n := by
  unfold State.diffuse
  split
  · exact h.put (hi (by assumption)) _
  · exact h

/-- A pixel of the frame stores to FB inside the bitmap (40_dither.md R136). -/
theorem State.pixelStep_fb_within {r c : Nat} (hr : r < s.cfg.height) (hc : c < s.cfg.width)
    (h : Memory.Within s.fb s.cfg.pixels) : Memory.Within (s.pixelStep r c).fb s.cfg.pixels := by
  unfold State.pixelStep
  simp only [State.diffuse_fb]
  exact State.packBit_within h (Nat.lt_of_lt_of_le (s.cfg.bitmap_lt hr hc) s.cfg.bmpBytes_le) _

/-- A pixel of the frame gives its error to pixels of the frame (40_dither.md R139). -/
theorem State.pixelStep_acc_within {r c : Nat} (hr : r < s.cfg.height) (hc : c < s.cfg.width)
    (h : Memory.Within s.acc s.cfg.pixels) : Memory.Within (s.pixelStep r c).acc s.cfg.pixels := by
  have hp {r c : Nat} (hr : r < s.cfg.height) (hc : c < s.cfg.width) := s.cfg.pixel_lt hr hc
  unfold State.pixelStep
  refine State.diffuse_within (State.diffuse_within (State.diffuse_within (State.diffuse_within ?_ ?_ _) ?_ _) ?_ _) ?_ _
  · rw [State.packBit_acc]; exact h
  all_goals simp only [decide_eq_true_eq]
  · exact hp hr
  · exact fun hi => hp hi.1 (by omega)
  · exact fun hi => hp hi hc
  · exact fun hi => hp hi.1 hi.2

/-! ### The invariant -/

/-- The invariant does not speak of the operand registers, DIM, SEND, the draws and the inputs. -/
theorem State.Inv.of_eq (hs : s.Inv) (h : ({ t with
      fbEpoch := s.fbEpoch, accEpoch := s.accEpoch, fbLen := s.fbLen, xpos := s.xpos, ypos := s.ypos, xsize := s.xsize,
      ysize := s.ysize, paddr := s.paddr, plen := s.plen, bright := s.bright, parts := s.parts, errDim := s.errDim,
      errSend := s.errSend, txEpoch := s.txEpoch, rdata := s.rdata, sink := s.sink, host := s.host, window := s.window,
      dutiful := s.dutiful } : State) = s) : t.Inv := by
  rw [← h] at hs
  exact { hs with }

theorem State.Inv.schedule (h : s.Inv) (rest : List HostEvent) (w : Option Nat) : (s.schedule rest w).Inv := h.of_eq rfl

theorem State.Inv.hostRead (h : s.Inv) (i : Nat) : (s.hostRead i).Inv := h.of_eq rfl

theorem State.Inv.writeReg (h : s.Inv) (i v : Nat) : (s.writeReg i v).Inv := by
  unfold State.writeReg
  split <;> exact h.of_eq rfl

theorem State.Inv.fb_within (h : s.Inv) : Memory.Within s.fb s.cfg.pixels := ⟨h.fbWf, h.fbBound⟩
theorem State.Inv.acc_within (h : s.Inv) : Memory.Within s.acc s.cfg.pixels := ⟨h.accWf, h.accBound⟩

/-- A block whose BUSY is 0 has both sequencers idle. -/
theorem State.Inv.units_idle (h : s.Inv) (hb : s.busy = false) : s.phase = .idle ∧ s.stage = .idle := by
  simpa [hb, not_or] using h.busyUnit

theorem State.Inv.writeFb (h : s.Inv) {a : Nat} (ha : a < s.cfg.pixels) (v : Byte) : (s.writeFb a v).Inv :=
  { h with
    fbWf := (h.fb_within.put ha v).1
    fbBound := (h.fb_within.put ha v).2 }

theorem State.Inv.resetInput (h : s.Inv) : s.resetInput.Inv where
  fbWf := Memory.wf_nil
  fbBound := nofun
  accWf := Memory.wf_nil
  accBound := nofun
  haltPkt := rfl
  haltIdle := nofun
  busyJob := by simp
  busyUnit := by simp
  dthJob := by simp
  rowRange := s.cfg.height_pos
  colRange := s.cfg.width_pos
  frm := by simp [FramerInv]
  txBound := Nat.zero_le _
  txLenBound := txLenUnspecified_le _ _
  timerIdle := fun _ => rfl
  outBound := h.outBound
  outPending := by simp


/-! ### Block steps keep the invariant -/

/-- An operation ends while FRM owns the block (41_framer.md R173). -/
theorem State.Inv.endFramer (h : s.Inv) (hp : s.phase = .idle) (ht : s.timer = 0) : s.endFramer.Inv :=
  { h with
    haltIdle := fun _ => rfl
    busyJob := by simp
    busyUnit := by simp [hp]
    dthJob := by simp [hp]
    frm := by simp [FramerInv]
    txBound := Nat.zero_le _
    txLenBound := txLenUnspecified_le _ _
    timerIdle := fun _ => ht
    outPending := by simp }

theorem State.Inv.raise_packetTooLarge (h : s.Inv) (hp : s.phase = .idle) (ht : s.timer = 0) :
    (s.raise .packetTooLarge).Inv :=
  { h.endFramer hp ht with
    haltPkt := rfl
    haltIdle := fun _ => rfl }

theorem State.Inv.loadTx (h : s.Inv) (hs : s.stage ≠ .idle) (ht : s.timer = 0) {bytes : List Byte}
    (hlen : 10 ≤ bytes.length ∧ bytes.length ≤ s.cfg.maxPacketSize) : (s.loadTx bytes).Inv := by
  obtain ⟨hb, hp, hj, hk, -⟩ := h.frm hs
  exact
    { h with
      busyUnit := by simp [hb]
      frm := fun _ => ⟨hb, hp, hj, hk, fun _ => ⟨rfl, hlen.1⟩, nofun⟩
      txBound := hlen.2
      txLenBound := hlen.2
      timerIdle := fun _ => ht
      outPending := nofun }

theorem State.Inv.buildStep (h : s.Inv) (hs : s.stage = .build) : s.buildStep.Inv := by
  have hp := (h.frm (by simp [hs])).2.1
  have ht := h.timerIdle (by simp [hs])
  unfold State.buildStep
  split
  · exact h
  · split
    · exact h.raise_packetTooLarge hp ht
    · have := build_length s.cfg (by assumption)
      exact h.loadTx (by simp [hs]) ht (by omega)

theorem State.Inv.handOver (h : s.Inv) (hs : s.stage = .handOver) : s.handOver.Inv := by
  obtain ⟨hb, hp, hj, hk, htx, -⟩ := h.frm (by simp [hs])
  obtain ⟨hl, hten⟩ := htx hs
  exact
    { h with
      busyUnit := by simp [hb]
      frm := fun _ => ⟨hb, hp, hj, hk, nofun, nofun⟩
      timerIdle := fun _ => h.timerIdle (by simp [hs])
      outBound := by
        intro e he
        obtain he | he := List.mem_append.mp he
        · exact h.outBound e he
        · rw [List.mem_singleton.mp he, hl, List.take_length]
          exact ⟨hten, h.txBound⟩
      outPending := by simp }

theorem State.Inv.takeAnswer (h : s.Inv) (a : Answer) (rest : List Answer) : (s.takeAnswer a rest).Inv := by
  have hanswered : ({ s with out := answerLast a s.out } : State).Inv :=
    { h with
      outBound := by
        intro e he
        obtain ⟨e', he', hbytes⟩ := mem_answerLast he
        exact hbytes ▸ h.outBound e' he'
      outPending := fun hs => mt answerLast_eq_nil_iff.mp (h.outPending hs) }
  cases a <;> exact hanswered.of_eq rfl

theorem State.Inv.afterAnswer (h : s.Inv) (hs : s.stage = .await) : s.afterAnswer.Inv := by
  obtain ⟨hb, hp, hj, hk, -⟩ := h.frm (by simp [hs])
  unfold State.afterAnswer
  split
  · rename_i hmore
    exact
      { h with
        busyUnit := by simp [hb]
        frm := fun _ => ⟨hb, hp, hj, hk, nofun, fun _ => hmore⟩
        timerIdle := by simp
        outPending := nofun }
  · exact h.endFramer hp (h.timerIdle (by simp [hs]))

theorem State.Inv.awaitStep (h : s.Inv) (hs : s.stage = .await) : s.awaitStep.Inv := by
  unfold State.awaitStep
  split
  · exact h
  · exact (h.takeAnswer _ _).afterAnswer (by simpa using hs)

theorem State.Inv.paceStep (h : s.Inv) (hs : s.stage = .pace) : s.paceStep.Inv := by
  obtain ⟨hb, hp, hj, -, -, hmore⟩ := h.frm (by simp [hs])
  exact
    { h with
      busyUnit := by simp [hb]
      frm := fun _ => ⟨hb, hp, hj, hmore hs, nofun, nofun⟩
      timerIdle := fun _ => rfl
      outPending := nofun }

theorem State.Inv.loadStep (h : s.Inv) (hp : s.phase = .load) : s.loadStep.Inv :=
  have hfb := h.fb_within.fill_above s.cfg.bmpBytes_le fun _ => 0
  have hacc := Memory.within_fill s.cfg.pixels fun i => (s.readFb i).setWidth 16
  { h with
    fbWf := hfb.1
    fbBound := hfb.2
    accWf := hacc.1
    accBound := hacc.2
    busyUnit := by simp [h.busyUnit, hp]
    dthJob := fun _ => h.dthJob (by simp [hp])
    rowRange := s.cfg.height_pos
    colRange := s.cfg.width_pos
    frm := fun hs => absurd (h.frm hs).2.1 (by simp [hp]) }

theorem State.Inv.pixelStep (h : s.Inv) : (s.pixelStep s.row s.col).Inv := by
  have hfb := State.pixelStep_fb_within h.rowRange h.colRange h.fb_within
  have hacc := State.pixelStep_acc_within h.rowRange h.colRange h.acc_within
  rw [s.pixelStep_eq]
  exact { h with fbWf := hfb.1, fbBound := hfb.2, accWf := hacc.1, accBound := hacc.2 }

theorem State.Inv.endDither (h : s.Inv) (hs : s.stage = .idle) : s.endDither.Inv :=
  have hfb := h.fb_within.below s.cfg.bmpBytes
  { h with
    fbWf := hfb.1
    fbBound := hfb.2
    accWf := Memory.wf_nil
    accBound := nofun
    haltIdle := fun _ => rfl
    busyJob := by simp
    busyUnit := by simp [hs]
    dthJob := by simp
    frm := fun hne => absurd hs hne }

theorem State.Inv.scanStep (h : s.Inv) (hs : s.stage = .idle) : s.scanStep.Inv := by
  have hpix := h.pixelStep
  obtain ⟨hc, heq⟩ | ⟨-, hr, heq⟩ | ⟨-, -, heq⟩ := s.scanStep_cases <;> rw [heq]
  · exact { hpix with colRange := by simpa using hc }
  · exact { hpix with rowRange := by simpa using hr, colRange := Config.width_pos _ }
  · exact hpix.endDither (by simpa using hs)

theorem State.Inv.advance (h : s.Inv) : s.advance.Inv := by
  unfold State.advance
  split
  next hs => exact h.buildStep hs
  next hs => exact h.handOver hs
  next hs => exact h.awaitStep hs
  next hs => exact h.paceStep hs
  next hs =>
    split
    next hp => exact h.loadStep hp
    next => exact h.scanStep hs
    next => exact h

theorem State.Inv.settle (h : s.Inv) : s.settle.Inv := State.settle_induct State.Inv (fun _ ht _ => ht.advance) h

/-! ### Every step keeps the invariant -/

theorem State.Inv.startDither (h : s.Inv) (hb : s.busy = false) (hh : s.halt = false) : s.startDither.Inv :=
  { h with
    haltIdle := by simp [hh]
    busyJob := by simp
    busyUnit := by simp
    dthJob := fun _ => rfl
    frm := fun hs => absurd (h.units_idle hb).2 hs }

theorem State.Inv.raise_invalidDimensions (h : s.Inv) (hb : s.busy = false) : (s.raise .invalidDimensions).Inv := by
  have : s.raise .invalidDimensions = { s with errDim := true } := by simp [State.raise, hb]
  exact this ▸ h.of_eq rfl

/-- An operation of FRM that has a packet to send is issued in an idle block. -/
theorem State.Inv.startFramer (h : s.Inv) (hb : s.busy = false) (hh : s.halt = false) {j : Job} (hj : j ≠ .dither)
    (hn : 1 ≤ j.packets s.cfg) : (s.startFramer j).Inv := by
  obtain ⟨hp, hs⟩ := h.units_idle hb
  exact
    { h with
      haltIdle := by simp [hh]
      busyJob := by simp
      busyUnit := by simp
      dthJob := by simp [hp]
      frm := fun _ => ⟨rfl, hp, by simpa using hj, hn, nofun, nofun⟩
      timerIdle := fun _ => h.timerIdle (by simp [hs])
      outPending := nofun }

/-- Within an operation FRM takes up a command without a change. -/
theorem State.engage_of_job (hb : s.busy = true) (hj : s.job ≠ none) (alone : Job) : s.engage alone = s := by
  obtain ⟨j, hj⟩ := Option.ne_none_iff_exists'.mp hj
  unfold State.engage
  rw [hj, Option.getD_some, ← hj, ← hb]

/-- A packet is executed where FRM has assembled it. -/
theorem State.pendingPacket_eq_some {i : Instr} (h : s.pendingPacket = some i) :
    s.busy = true ∧ s.stage = .handOver := by
  unfold State.pendingPacket at h
  split at h
  · exact (Bool.and_eq_true_iff.mp (by assumption)).imp_right of_decide_eq_true
  · cases h

/-- A packet that may be sent is a header at least, MAX_PACKET_SIZE at most (30_encoding.md R109). -/
theorem encode_length {c : Config} {i : Instr} (space : i.space = .wire) (wf : i.wf c = true) :
    10 ≤ (encode c i).length ∧ (encode c i).length ≤ c.maxPacketSize := by
  obtain ⟨hlen, hwf⟩ := Laws.Encoded.statement i c
  refine ⟨?_, (hwf space).mp wf⟩
  rw [hlen, space]
  exact Nat.le_add_right 10 _

@[simp] theorem decodeOp_space (value : Nat) : (decodeOp value).space = .opReg := by
  unfold decodeOp
  split <;> rfl

/-- An instruction keeps the invariant: an operation number in any state, a packet where FRM has assembled one. -/
theorem Executed.inv {i : Instr} (h : Executed i s t) (hs : s.Inv) (hpkt : i.space = .wire → s.stage = .handOver) :
    t.Inv := by
  cases h with
  | ignored => exact hs.settle
  | wrongLength hb => exact hs.raise_invalidDimensions hb
  | dither hb hh => exact (hs.startDither hb hh).settle
  | tooLarge hb =>
    obtain ⟨hp, hst⟩ := hs.units_idle hb
    exact hs.raise_packetTooLarge hp (hs.timerIdle (by simp [hst]))
  | framer j hb hh space hj hn => exact (hs.startFramer hb hh hj hn).settle
  | packetTooLarge space =>
    have hst := hpkt space
    exact hs.raise_packetTooLarge (hs.frm (by simp [hst])).2.1 (hs.timerIdle (by simp [hst]))
  | packet alone space hw =>
    have hst := hpkt space
    have hb := (hs.frm (by simp [hst])).1
    rw [State.engage_of_job hb (hs.busyJob.mp hb)]
    have hlen : 10 ≤ (encode s.cfg i).length ∧ (encode s.cfg i).length ≤ s.cfg.maxPacketSize := encode_length space hw
    exact ((hs.loadTx (by simp [hst]) (hs.timerIdle (by simp [hst])) hlen).handOver rfl).settle

theorem HostMoved.inv {m : HostMove} (h : HostMoved s m t) (hs : s.Inv) : t.Inv := by
  cases h with
  | op value duty run => exact run.inv hs (by simp)
  | write index value => exact (hs.writeReg _ _).settle
  | read index => exact (hs.hostRead _).settle
  | fbWrite addr value hb ha => exact hs.writeFb ha value
  | fbRead addr => exact hs.of_eq rfl
  | reset => exact hs.resetInput

/-- Settles O49: HOST's access keeps the invariant, and so does every block step that follows it. -/
theorem stepKeepsInvariant : Obligations.StepKeepsInvariant := by
  intro s t hs h
  obtain ⟨m, w, rest, -, hm⟩ | ⟨-, i, hi, hx⟩ | ⟨-, -, rfl⟩ := step_cases h
  · exact hm.inv (hs.schedule rest w)
  · exact hx.inv (hs.schedule [] none) fun _ => (State.pendingPacket_eq_some hi).2
  · exact (hs.schedule [] none).settle

/-! ### Reset -/

theorem State.reset_inv : State.reset.Inv where
  fbWf := Memory.wf_nil
  fbBound := nofun
  accWf := Memory.wf_nil
  accBound := nofun
  haltPkt := rfl
  haltIdle := nofun
  busyJob := by simp [State.reset]
  busyUnit := by simp [State.reset]
  dthJob := fun hp => absurd rfl hp
  rowRange := Config.height_pos _
  colRange := Config.width_pos _
  frm := fun hs => absurd rfl hs
  txBound := Nat.zero_le _
  txLenBound := txLenUnspecified_le _ _
  timerIdle := fun _ => rfl
  outBound := nofun
  outPending := nofun

/-- Settles O48: the memories, OUT and the queues are empty at reset, and no unit is at work. -/
theorem invariantHoldsAtReset : Obligations.InvariantHoldsAtReset := ⟨State.reset_inv, ⟨nofun, nofun⟩⟩

end Machine

end Sys2Proof
end

section
/-! Proofs of the family 10_state.md: OUT only grows (R44), the error flags are sticky (R40), and a register write does not
reach the operation in progress (R38). -/

namespace Sys2Proof.Machine

variable {s t : State}

/-! ### What the block does not take back (10_state.md R40, R44; 60_exceptions.md R232) -/

/-- Every datagram of OUT is still there, in the same place, and no error flag that was set is clear. -/
structure Persists (s t : State) : Prop where
  out     : s.out.map Sent.bytes <+: t.out.map Sent.bytes
  errDim  : s.errDim = true → t.errDim = true
  errPkt  : s.errPkt = true → t.errPkt = true
  errSend : s.errSend = true → t.errSend = true

theorem Persists.trans {u : State} (h : Persists s t) (h' : Persists t u) : Persists s u :=
  ⟨h.out.trans h'.out, h'.errDim ∘ h.errDim, h'.errPkt ∘ h.errPkt, h'.errSend ∘ h.errSend⟩

theorem Persists.of_eq (ho : t.out = s.out) (hd : t.errDim = s.errDim) (hp : t.errPkt = s.errPkt)
    (hs : t.errSend = s.errSend) : Persists s t := ⟨by rw [ho], hd.trans, hp.trans, hs.trans⟩

theorem Persists.refl : Persists s s := .of_eq rfl rfl rfl rfl

theorem Persists.raise (e : Error) : Persists s (s.raise e) := by
  cases e with
  | invalidDimensions => exact ⟨List.prefix_rfl, fun _ => rfl, id, id⟩
  | packetTooLarge => exact ⟨List.prefix_rfl, id, fun _ => rfl, id⟩

theorem Persists.handOver : Persists s s.handOver := ⟨by simp, id, id, id⟩

theorem Persists.takeAnswer (a : Answer) (rest : List Answer) : Persists s (s.takeAnswer a rest) :=
  ⟨by simp [map_bytes_answerLast], by simp, by simp, by simp +contextual⟩

theorem Persists.afterAnswer : Persists s s.afterAnswer := by
  unfold State.afterAnswer
  split <;> exact .of_eq rfl rfl rfl rfl

theorem Persists.buildStep : Persists s s.buildStep := by
  unfold State.buildStep
  split
  · exact .refl
  · split
    · exact .raise _
    · exact .of_eq rfl rfl rfl rfl

theorem Persists.awaitStep : Persists s s.awaitStep := by
  unfold State.awaitStep
  split
  · exact .refl
  · exact (Persists.takeAnswer _ _).trans .afterAnswer

theorem Persists.scanStep : Persists s s.scanStep := by
  have hp : (s.pixelStep s.row s.col).errDim = s.errDim := by rw [s.pixelStep_eq]; rfl
  have hd : s.scanStep.errDim = s.errDim := by
    obtain ⟨-, h⟩ | ⟨-, -, h⟩ | ⟨-, -, h⟩ := s.scanStep_cases <;> rw [h] <;> exact hp
  have hf := s.frame_scanStep
  exact .of_eq hf.out hd hf.errPkt hf.errSend

theorem Persists.advance : Persists s s.advance := by
  unfold State.advance
  split
  · exact .buildStep
  · exact .handOver
  · exact .awaitStep
  · exact .of_eq rfl rfl rfl rfl
  · split
    · exact .of_eq rfl rfl rfl rfl
    · exact .scanStep
    · exact .refl

theorem Persists.settle (h : Persists s t) : Persists s t.settle :=
  State.settle_induct (Persists s) (fun _ hu _ => hu.trans .advance) h

theorem Executed.persists {i : Instr} (h : Executed i s t) : Persists s t := by
  cases h with
  | ignored => exact .settle .refl
  | wrongLength => exact .raise _
  | dither => exact .settle (.of_eq rfl rfl rfl rfl)
  | tooLarge => exact .raise _
  | framer => exact .settle (.of_eq rfl rfl rfl rfl)
  | packetTooLarge => exact .raise _
  | packet alone =>
    have hbuilt : Persists s ((s.engage alone).loadTx (encode s.cfg i)) := .of_eq rfl rfl rfl rfl
    exact .settle (hbuilt.trans .handOver)

theorem HostMoved.out_grows {m : HostMove} (h : HostMoved s m t) : s.out.map Sent.bytes <+: t.out.map Sent.bytes := by
  cases h with
  | op value duty run => exact run.persists.out
  | write index value =>
    have := (Persists.settle (.refl (s := s.writeReg (index + 1) value))).out
    rwa [State.writeReg_out] at this
  | read index => exact (Persists.settle (.refl (s := s.hostRead index))).out
  | fbWrite => exact List.prefix_rfl
  | fbRead => exact List.prefix_rfl
  | reset => exact List.prefix_rfl

/-- Settles O52: only a hand-over appends to OUT, and only an answer writes beside a datagram. -/
theorem outOnlyGrows : Obligations.OutOnlyGrows := by
  intro s t h
  obtain ⟨m, w, rest, -, hm⟩ | ⟨-, i, -, hi⟩ | ⟨-, -, rfl⟩ := step_cases h
  · exact hm.out_grows
  · exact hi.persists.out
  · exact (Persists.settle (.refl (s := s.schedule [] none))).out

/-- A write to another register than ERR changes no flag. -/
theorem State.writeReg_err {i : Nat} (hi : i ≠ 2) (v : Nat) :
    (s.writeReg i v).errDim = s.errDim ∧ (s.writeReg i v).errSend = s.errSend := by
  unfold State.writeReg
  split <;> trivial

theorem HostMoved.persists {m : HostMove} (h : HostMoved s m t) (hr : m ≠ .reset) (he : ∀ v, m ≠ .write 2 v) :
    Persists s t := by
  cases h with
  | op value duty run => exact run.persists
  | write index value =>
    have hi : index + 1 ≠ 2 := fun hi => he value (hi ▸ rfl)
    obtain ⟨hd, hs⟩ := s.writeReg_err hi value
    exact .settle (.of_eq (by simp) hd (by simp) hs)
  | read => exact .settle (.of_eq rfl rfl rfl rfl)
  | fbWrite => exact .of_eq rfl rfl rfl rfl
  | fbRead => exact .of_eq rfl rfl rfl rfl
  | reset => exact absurd rfl hr

/-- Settles O53: an error sets a flag, SINK's answer `err` sets SEND, and nothing else in the block touches one. -/
theorem flagsAreSticky : Obligations.FlagsAreSticky := by
  intro s t h hmove
  have hqueue (rest : List HostEvent) (w : Option Nat) : Persists s (s.schedule rest w) := .of_eq rfl rfl rfl rfl
  have hp : Persists s t := by
    obtain ⟨m, w, rest, hq, hm⟩ | ⟨-, i, -, hi⟩ | ⟨-, -, rfl⟩ := step_cases h
    · obtain ⟨hr, he⟩ := hmove _ _ hq
      exact (hqueue rest w).trans (hm.persists hr he)
    · exact (hqueue [] none).trans hi.persists
    · exact (hqueue [] none).settle
  exact ⟨hp.errDim, hp.errPkt, hp.errSend⟩

/-! ### A register write beside the operation in progress (10_state.md R38, R41; 20_memory.md R88) -/

/-- The state with the operand registers of another. -/
def State.withOperands (s o : State) : State :=
  { s with
    fbLen := o.fbLen
    xpos := o.xpos
    ypos := o.ypos
    xsize := o.xsize
    ysize := o.ysize
    paddr := o.paddr
    plen := o.plen
    bright := o.bright
    parts := o.parts }

section
variable (s) (o : State)

@[simp] theorem State.withOperands_cfg : (s.withOperands o).cfg = s.cfg := rfl
@[simp] theorem State.withOperands_phase : (s.withOperands o).phase = s.phase := rfl
@[simp] theorem State.withOperands_row : (s.withOperands o).row = s.row := rfl
@[simp] theorem State.withOperands_col : (s.withOperands o).col = s.col := rfl
@[simp] theorem State.withOperands_stage : (s.withOperands o).stage = s.stage := rfl
@[simp] theorem State.withOperands_k : (s.withOperands o).k = s.k := rfl
@[simp] theorem State.withOperands_job : (s.withOperands o).job = s.job := rfl
@[simp] theorem State.withOperands_sink : (s.withOperands o).sink = s.sink := rfl

theorem State.command_withOperands (k : Nat) : (s.withOperands o).command k = s.command k := by
  funext j
  cases j <;> rfl

theorem State.buildStep_withOperands : (s.withOperands o).buildStep = s.buildStep.withOperands o := by
  unfold State.buildStep
  simp only [State.withOperands_job, State.withOperands_k, State.command_withOperands, State.withOperands_cfg]
  split
  · rfl
  · split <;> rfl

theorem State.takeAnswer_withOperands (a : Answer) (rest : List Answer) :
    (s.withOperands o).takeAnswer a rest = (s.takeAnswer a rest).withOperands o := by cases a <;> rfl

theorem State.afterAnswer_withOperands : (s.withOperands o).afterAnswer = s.afterAnswer.withOperands o :=
  (apply_ite (State.withOperands · o) (s.k + 1 < s.packets) s.startPace s.endFramer).symm

theorem State.awaitStep_withOperands : (s.withOperands o).awaitStep = s.awaitStep.withOperands o := by
  unfold State.awaitStep
  simp only [State.withOperands_sink, State.takeAnswer_withOperands, State.afterAnswer_withOperands]
  split <;> rfl

theorem State.packBit_withOperands (bit : Bool) (r c : Nat) :
    (s.withOperands o).packBit bit r c = (s.packBit bit r c).withOperands o := by
  cases bit <;> rfl

theorem State.diffuse_withOperands (inside : Bool) (i : Nat) (e : Int) :
    (s.withOperands o).diffuse inside i e = (s.diffuse inside i e).withOperands o := by
  cases inside <;> rfl

theorem State.pixelStep_withOperands (r c : Nat) :
    (s.withOperands o).pixelStep r c = (s.pixelStep r c).withOperands o := by
  unfold State.pixelStep
  simp only [State.packBit_withOperands, State.diffuse_withOperands]
  rfl

theorem State.scanStep_withOperands : (s.withOperands o).scanStep = s.scanStep.withOperands o := by
  unfold State.scanStep
  simp only [State.pixelStep_withOperands, State.withOperands_cfg, State.withOperands_row, State.withOperands_col]
  split
  · rfl
  · split <;> rfl

/-- A block step neither reads nor changes an operand register: the operation has its operands in `job`. -/
theorem State.advance_withOperands : (s.withOperands o).advance = s.advance.withOperands o := by
  unfold State.advance
  simp only [State.withOperands_stage, State.withOperands_phase]
  split
  · exact s.buildStep_withOperands o
  · rfl
  · exact s.awaitStep_withOperands o
  · rfl
  · split
    · rfl
    · exact s.scanStep_withOperands o
    · rfl

theorem runFor_withOperands (n : Nat) : runFor n (s.withOperands o) = (runFor n s).withOperands o := by
  induction n generalizing s with
  | zero => rfl
  | succ n ih =>
    by_cases ha : s.active = true
    · rw [runFor_active _ _ ha, runFor_active (s.withOperands o) _ ha, State.advance_withOperands, ih]
    · have ha : s.active = false := by simpa using ha
      rw [runFor_inactive _ _ ha, runFor_inactive (s.withOperands o) _ ha]

theorem State.withOperands_writeReg {i : Nat} (hi : i ≠ 2) (v : Nat) :
    (s.withOperands o).writeReg i v = s.withOperands (o.writeReg i v) := by
  unfold State.writeReg
  split <;> trivial

theorem runFor_writeReg {i : Nat} (hi : i ≠ 2) (v n : Nat) :
    runFor n (s.writeReg i v) = (runFor n s).writeReg i v :=
  calc runFor n (s.writeReg i v)
    _ = runFor n (s.withOperands (s.writeReg i v)) := by rw [← s.withOperands_writeReg s hi]; rfl
    _ = (runFor n s).withOperands (s.writeReg i v) := runFor_withOperands ..
    _ = ((runFor n s).withOperands s).writeReg i v := (State.withOperands_writeReg _ s hi v).symm
    _ = (runFor n s).writeReg i v := by rw [← runFor_withOperands]; rfl

theorem State.settle_writeReg {i : Nat} (hi : i ≠ 2) (v : Nat) : (s.writeReg i v).settle = s.settle.writeReg i v := by
  unfold State.settle State.work
  rw [State.writeReg_window]
  split
  · simp only [State.writeReg_job, State.writeReg_cfg]
    exact runFor_writeReg s hi v _
  · exact runFor_writeReg s hi v _

end

/-- Settles O44: a register write commutes with every run of the block. -/
theorem runningOperationDoesNotSeeRegisterWrites : Obligations.RunningOperationDoesNotSeeRegisterWrites := by
  refine ⟨fun s i v n hi => runFor_writeReg s hi v n, fun s i v w rest hi hq => ?_⟩
  rw [step_host hq, hostMove_write, State.settle_writeReg _ (by omega)]

end Sys2Proof.Machine
end

section
/-! Proofs of the family 10_state.md: what HOST's port does at OP (R38), at the registers (R41), at STATUS and ERR (R39,
R40), at FB (R31) and at the reset input (R49), and the values at reset. -/

namespace Sys2Proof.Machine

variable {s : State}

/-! ### The operation number (10_state.md R38, 30_encoding.md R112) -/

/-- The bits above OPC have no effect. -/
theorem decodeOp_mod (value : Nat) : decodeOp (value % 8) = decodeOp value := by
  unfold decodeOp
  rw [Nat.mod_mod]

/-- Settles O5: the eight numbers, the bits above them having no effect. -/
theorem opNumberSelectsOperation : Obligations.OpNumberSelectsOperation := by
  intro v n hn
  rw [← decodeOp_mod, show (8 * v + n) % 8 = n by omega]
  revert n
  decide

/-- The reserved numbers are 0 and 7. -/
theorem isReserved_decodeOp (value : Nat) : isReserved (decodeOp value) = decide (value % 8 = 0 ∨ value % 8 = 7) := by
  have hlt : value % 8 < 8 := Nat.mod_lt value (by decide)
  rw [← decodeOp_mod]
  generalize value % 8 = n at hlt
  revert n
  decide

/-! ### A step executes the instruction HOST or FRM placed (10_state.md R38, R43) -/

section
variable {w : Option Nat} {rest : List HostEvent} {value : Nat}

/-- A write to OP that is no breach of HOST's duty is a step of the operation it names. -/
theorem step_op (hq : s.host = ⟨.write 0 value, w⟩ :: rest) (hd : s.opBreach value = none) :
    step s = exec (decodeOp value) (s.schedule rest w) := by
  rw [step_host hq]
  exact hostMove_write_op hd

theorem step_op_refused {r : Refusal} (hq : s.host = ⟨.write 0 value, w⟩ :: rest) (hd : s.opBreach value = some r) :
    step s = .refused r := by
  rw [step_host hq]
  exact hostMove_write_op_refused hd

end

/-- Settles O6: the write is executed unless `opBreach` names it. -/
theorem stepRunsOperation : Obligations.StepRunsOperation := by
  intro s value w rest hq
  refine ⟨fun h => step_op hq ?_, fun hd hb => step_op_refused hq ?_, fun hd hb hh hr => step_op_refused hq ?_, rfl, rfl⟩
  · obtain hd | ⟨hb, hh | hr⟩ := h
    · exact s.opBreach_of_not_dutiful hd value
    · exact s.opBreach_of_halt hb hh value
    · simp [State.opBreach, hb, isReserved_decodeOp, hr]
  · simp [State.opBreach, hd, hb]
  · simp [State.opBreach, hd, hb, hh, isReserved_decodeOp, hr]

/-- With no access queued, the step executes the packet FRM has assembled. -/
theorem step_packet {i : Instr} (hq : s.host = []) (hb : s.busy = true) (hs : s.stage = .handOver)
    (hd : decode s.cfg .wire (s.txbuf.take s.txlen) = .ok i) : step s = exec i (s.schedule [] none) := by
  have hp : (s.schedule [] none).pendingPacket = some i := by
    simp [State.pendingPacket, hb, hs, hd, Except.toOption]
  rw [step_alone hq]
  unfold State.blockMove
  rw [hp]

/-- Settles O7: the packet in TXBUF is the pending one. -/
theorem stepRunsPacket : Obligations.StepRunsPacket := fun _ _ => step_packet

/-- Settles O8: both placements put the instruction where the step looks for one. -/
theorem stepRunsFetchWord : Obligations.StepRunsFetchWord := by
  intro s nbits w
  refine ⟨fun hn => ?_, fun hn => ?_⟩
  · rw [State.withFetchWord, if_neg hn]
    exact step_op rfl (State.opBreach_of_not_dutiful rfl w)
  · have htake : (s.withPacket (tablePacket s.cfg w)).txbuf.take (s.withPacket (tablePacket s.cfg w)).txlen =
        tablePacket s.cfg w := List.take_length
    refine ⟨by rw [State.withFetchWord, if_pos hn], htake, fun i hi => step_packet rfl rfl rfl ?_⟩
    rw [htake]
    exact hi

/-! ### Operation numbers that are ignored (30_encoding.md R113, R114) -/

/-- Settles O25: a block that is not busy has nothing to go on with. -/
theorem reservedNumbersChangeNothing : Obligations.ReservedNumbersChangeNothing := fun s hb =>
  ⟨congrArg Host.Outcome.next (s.settle_idle hb), congrArg Host.Outcome.next (s.settle_idle hb)⟩

/-- An operation number written while BUSY or HALT leaves the block to go on. -/
theorem exec_ignored {i : Instr} (space : i.space = .opReg) (h : s.busy = true ∨ s.halt = true) :
    exec i s = .next s.settle := by
  cases i with
  | pktDraw | pktClear | pktSetBrightness => cases space
  | reserved0 | reserved7 => rfl
  | dither | clear | bright | draw | stream | streambuf => exact s.issue_ignored h _

/-- Settles O26: a halted block is idle, and the write is ignored. -/
theorem operationsIgnoredWhileHalted : Obligations.OperationsIgnoredWhileHalted := by
  intro s i hh hb space
  rw [exec_ignored space (.inr hh), s.settle_idle hb]

/-- Settles O27: the write is ignored, and the operation in progress goes on. -/
theorem operationsIgnoredWhileBusy : Obligations.OperationsIgnoredWhileBusy :=
  fun _ _ hb space => exec_ignored space (.inl hb)

/-! ### The register file (10_state.md R41) -/

section
variable {i : Nat} (v : Nat)

theorem State.writeReg_fbLen (hi : i ≠ 3) : (s.writeReg i v).fbLen = s.fbLen := by
  unfold State.writeReg; split <;> trivial
theorem State.writeReg_xpos (hi : i ≠ 4) : (s.writeReg i v).xpos = s.xpos := by
  unfold State.writeReg; split <;> trivial
theorem State.writeReg_ypos (hi : i ≠ 5) : (s.writeReg i v).ypos = s.ypos := by
  unfold State.writeReg; split <;> trivial
theorem State.writeReg_xsize (hi : i ≠ 6) : (s.writeReg i v).xsize = s.xsize := by
  unfold State.writeReg; split <;> trivial
theorem State.writeReg_ysize (hi : i ≠ 7) : (s.writeReg i v).ysize = s.ysize := by
  unfold State.writeReg; split <;> trivial
theorem State.writeReg_paddr (hi : i ≠ 8) : (s.writeReg i v).paddr = s.paddr := by
  unfold State.writeReg; split <;> trivial
theorem State.writeReg_plen (hi : i ≠ 9) : (s.writeReg i v).plen = s.plen := by
  unfold State.writeReg; split <;> trivial
theorem State.writeReg_bright (hi : i ≠ 10) : (s.writeReg i v).bright = s.bright := by
  unfold State.writeReg; split <;> trivial
theorem State.writeReg_parts (hi : i ≠ 11) : (s.writeReg i v).parts = s.parts := by
  unfold State.writeReg; split <;> trivial

/-- A register whose index HOST does not write reads as before. -/
theorem State.readReg_writeReg_ne {j : Nat} (h : i ≠ j) : (s.writeReg i v).readReg j = s.readReg j := by
  unfold State.readReg
  split
  · rfl
  · simp [State.statusWord]
  · simp [State.errWord, s.writeReg_err h v]
  · rw [State.writeReg_fbLen v h]
  · rw [State.writeReg_xpos v h]
  · rw [State.writeReg_ypos v h]
  · rw [State.writeReg_xsize v h]
  · rw [State.writeReg_ysize v h]
  · rw [State.writeReg_paddr v h]
  · rw [State.writeReg_plen v h]
  · rw [State.writeReg_bright v h]
  · rw [State.writeReg_parts v h]
  · rfl

/-- An operand register holds what was written, modulo its width. -/
theorem State.readReg_writeReg_self {width : Nat}
    (h : (i, width) ∈ [(3, 32), (4, 16), (5, 16), (6, 16), (7, 16), (8, 32), (9, 32), (10, 8), (11, 16)]) :
    (s.writeReg i v).readReg i = v % 2 ^ width := by
  fin_cases h <;> exact BitVec.toNat_ofNat v _

/-- A write to STATUS or to an index that does not exist does nothing. -/
theorem State.writeReg_absent (h : i = 1 ∨ 12 ≤ i) : s.writeReg i v = s := by
  unfold State.writeReg
  split
  case h_11 => rfl
  all_goals omega

/-- OP and an index that does not exist read 0. -/
theorem State.readReg_absent (h : i = 0 ∨ 12 ≤ i) : s.readReg i = 0 := by
  unfold State.readReg
  split
  case h_1 => rfl
  case h_13 => rfl
  all_goals omega

end

theorem State.advance_rdata : s.advance.rdata = s.rdata := by
  by_cases h : s.stage = .idle
  · exact (s.frame_advance_dither h).outside.2.2.2.1
  · exact (s.frame_advance h).outside.2.2.2.1

theorem State.settle_rdata : s.settle.rdata = s.rdata :=
  State.settle_induct (fun t => t.rdata = s.rdata) (fun _ ht _ => State.advance_rdata.trans ht) rfl

/-- HOST's read puts the register on the port, and the block goes on. -/
theorem step_read {i : Nat} {w : Option Nat} {rest : List HostEvent} (hq : s.host = ⟨.read i, w⟩ :: rest) :
    ∃ t, step s = .next t ∧ t.rdata = s.readReg i ∧
      t = ({ s.schedule rest w with rdata := s.readReg i } : State).settle := by
  refine ⟨_, ?_, ?_, rfl⟩
  · rw [step_host hq]; rfl
  · exact State.settle_rdata

/-- Settles O41: the registers' laws, and the step of each of the two accesses. -/
theorem registersReadBack : Obligations.RegistersReadBack :=
  ⟨fun _ _ _ _ _ hq => step_host hq, fun _ _ _ _ => step_read, fun _ _ v _ => State.readReg_writeReg_self v,
    fun _ _ _ v => State.readReg_writeReg_ne v, fun _ _ v => State.writeReg_absent v, fun _ _ => State.readReg_absent⟩

/-! ### STATUS and ERR (10_state.md R39, R40) -/

/-- Bit `k` of a value is clear. -/
theorem not_testBit_eq_decide (v k : Nat) : (!v.testBit k) = decide (v / 2 ^ k % 2 = 0) := by
  rw [Nat.testBit_eq_decide_div_mod_eq, ← decide_not, decide_eq_decide]
  omega

theorem State.writeReg_errReg (v : Nat) :
    s.writeReg 2 v =
      { s with
        errDim := s.errDim && decide (v % 2 = 0)
        errSend := s.errSend && decide (v / 4 % 2 = 0) } := by
  have h0 := not_testBit_eq_decide v 0
  have h2 := not_testBit_eq_decide v 2
  rw [Nat.pow_zero, Nat.div_one] at h0
  change s.clearErr v = _
  rw [State.clearErr, h0, h2]
  rfl

/-- Settles O42: a one in bit 0 clears DIM and a one in bit 2 clears SEND. -/
theorem errIsWriteOneToClear : Obligations.ErrIsWriteOneToClear := by
  refine ⟨fun s v => State.writeReg_errReg v, fun s v w rest hq => ?_⟩
  rw [step_host hq, hostMove_write, State.writeReg_errReg]
  rfl

theorem State.statusWord_eq_bit : s.statusWord = Nat.bit s.busy (Nat.bit s.halt 0) := by
  unfold State.statusWord
  cases s.busy <;> cases s.halt <;> rfl

theorem State.errWord_eq_bit : s.errWord = Nat.bit s.errDim (Nat.bit s.errPkt (Nat.bit s.errSend 0)) := by
  unfold State.errWord
  cases s.errDim <;> cases s.errPkt <;> cases s.errSend <;> rfl

/-- Settles O43: each word is its flags, bit by bit, and HOST's read returns it. -/
theorem statusAndErrWords : Obligations.StatusAndErrWords := by
  refine ⟨fun s b => ⟨?_, ?_⟩, fun s i w rest _ hq => ?_⟩
  · change s.statusWord.testBit b = _
    rw [State.statusWord_eq_bit]
    match b with
    | 0 => simp
    | 1 => simp [Nat.testBit_bit_succ]
    | b + 2 => simp [Nat.testBit_bit_succ]
  · change s.errWord.testBit b = _
    rw [State.errWord_eq_bit]
    match b with
    | 0 => simp
    | 1 => simp [Nat.testBit_bit_succ]
    | 2 => simp [Nat.testBit_bit_succ]
    | b + 3 => simp [Nat.testBit_bit_succ]
  · obtain ⟨t, ht, hr, -⟩ := step_read hq
    exact ⟨t, ht, hr⟩

/-! ### The FB port (10_state.md R31, 20_memory.md R70, R85) -/

section
variable {a : Nat}

theorem hostFbWrite_next (hb : s.busy = false) (ha : a < s.cfg.pixels) (b : Byte) :
    s.hostMove (.fbWrite a b) = .next (s.writeFb a b) := by
  simp [State.hostMove, State.hostFbWrite, hb, ha]

theorem hostFbRead_next (hb : s.busy = false) (ha : a < s.cfg.pixels) :
    s.hostMove (.fbRead a) = .next { s with rdata := (s.readFb a).toNat } := by
  simp [State.hostMove, State.hostFbRead, hb, ha]

theorem hostFb_fault (hb : s.busy = false) (ha : s.cfg.pixels ≤ a) (b : Byte) :
    s.hostMove (.fbWrite a b) = .fault .fbAddress ∧ s.hostMove (.fbRead a) = .fault .fbAddress := by
  simp [State.hostMove, State.hostFbWrite, State.hostFbRead, hb, ha]

theorem hostFb_refused (hb : s.busy = true) (b : Byte) :
    s.hostMove (.fbWrite a b) = .refused .fbWhileBusy ∧ s.hostMove (.fbRead a) = .refused .fbWhileBusy := by
  simp [State.hostMove, State.hostFbWrite, State.hostFbRead, hb]

end

/-- Settles O45: the port is FB's own read and write while idle and inside FB, and has no step elsewhere. -/
theorem hostFbPort : Obligations.HostFbPort := by
  intro s a b
  refine ⟨fun hb ha => ?_, fun hb ha => hostFb_fault hb ha b, fun hb => hostFb_refused hb b⟩
  have hself : (s.writeFb a b).readFb a = b := by rw [State.readFb_writeFb, if_pos rfl]
  refine ⟨_, hostFbWrite_next hb ha b, hself, fun x hx => ?_, ⟨rfl, rfl, rfl, rfl, rfl, rfl, rfl, rfl, rfl⟩,
    ⟨rfl, rfl, rfl, rfl, rfl⟩, rfl, _, hostFbRead_next hb ha, congrArg BitVec.toNat hself, fun _ => rfl⟩
  rw [State.readFb_writeFb, if_neg hx.symm]

/-! ### Reset (10_state.md R49, 70_reset_and_hazards.md R260 to R263) -/

/-- Settles O46: the step is `resetInput`, which gives each field its reset value. -/
theorem resetInputRestoresResetValues : Obligations.ResetInputRestoresResetValues := by
  intro s w rest hq
  exact ⟨(s.schedule rest w).resetInput, step_host hq, ⟨rfl, rfl, rfl, rfl, rfl, rfl, rfl, rfl, rfl⟩,
    ⟨rfl, rfl, rfl, rfl, rfl⟩, ⟨rfl, rfl, rfl⟩, rfl, rfl, rfl, rfl, rfl, rfl, rfl, rfl, rfl, rfl, rfl⟩

/-- Settles O47: the fields of `State.reset`. -/
theorem resetValues : Obligations.ResetValues :=
  ⟨rfl, rfl, rfl, rfl, rfl, rfl, rfl, rfl, rfl, rfl, rfl, rfl, rfl, rfl, rfl, rfl, rfl, rfl, rfl, rfl, rfl, rfl⟩

end Sys2Proof.Machine
end

section
/-! Proofs of the family 30_encoding.md: the bytes of a header (R101, R103, R104), what the parser accepts (R110) and what
the rows accept (R109, R117), each said once as an equivalence, and the round trips these give. -/

namespace Sys2Proof

/-! ### A header field and its two bytes (30_encoding.md R103) -/

section
variable (be : Bool)

theorem dec16_eq_append (b0 b1 : Byte) : dec16 be b0 b1 = if be then b0 ++ b1 else b1 ++ b0 := by
  cases be <;> simp [dec16, ← BitVec.setWidth_append_eq_shiftLeft_setWidth_or]

theorem enc16_dec16 (b0 b1 : Byte) : enc16 be (dec16 be b0 b1) = [b0, b1] := by
  have hfst (x y : Byte) : (x ++ y : Half).extractLsb' 8 8 = x := BitVec.extractLsb'_append_eq_left
  have hsnd (x y : Byte) : (x ++ y : Half).extractLsb' 0 8 = y := BitVec.extractLsb'_append_eq_right
  cases be <;> simp [dec16_eq_append, enc16, hfst, hsnd]

/-- Every field is read back from the two bytes it is sent as. -/
theorem exists_enc16_eq (v : Half) : ∃ b0 b1, enc16 be v = [b0, b1] ∧ dec16 be b0 b1 = v := by
  have hv : v.extractLsb' 8 8 ++ v.extractLsb' 0 8 = v :=
    (BitVec.extractLsb'_append_extractLsb'_eq_extractLsb' rfl).trans BitVec.extractLsb'_eq_self
  cases be <;> exact ⟨_, _, rfl, by rwa [dec16_eq_append]⟩

/-! ### The header and the payload (30_encoding.md R101) -/

/-- Ten bytes or more are a header and a payload. -/
theorem exists_header_append {bytes : List Byte} (h : 10 ≤ bytes.length) :
    ∃ cmd f payload, bytes = encodeHeader be cmd f ++ payload := by
  match bytes, h with
  | c0 :: c1 :: x0 :: x1 :: y0 :: y1 :: w0 :: w1 :: h0 :: h1 :: payload, _ =>
    exact ⟨dec16 be c0 c1, ⟨dec16 be x0 x1, dec16 be y0 y1, dec16 be w0 w1, dec16 be h0 h1⟩, payload, by
      simp [encodeHeader, enc16_dec16]⟩

end

section
variable {c : Config} {bytes payload : List Byte} {cmd : Half} {f : HeaderFields} {p : Packet} {i : Instr}

/-- The parser reads the five fields back and goes on with the payload. -/
theorem parsePacket_header_append (c : Config) (cmd : Half) (f : HeaderFields) (payload : List Byte) :
    parsePacket c (encodeHeader c.hdrBigEndian cmd f ++ payload) = parseCommand c cmd f payload := by
  obtain ⟨x, y, w, h⟩ := f
  obtain ⟨c0, c1, hcmd, rfl⟩ := exists_enc16_eq c.hdrBigEndian cmd
  obtain ⟨x0, x1, hx, rfl⟩ := exists_enc16_eq c.hdrBigEndian x
  obtain ⟨y0, y1, hy, rfl⟩ := exists_enc16_eq c.hdrBigEndian y
  obtain ⟨w0, w1, hw, rfl⟩ := exists_enc16_eq c.hdrBigEndian w
  obtain ⟨h0, h1, hh, rfl⟩ := exists_enc16_eq c.hdrBigEndian h
  simp only [encodeHeader, hcmd, hx, hy, hw, hh]
  rfl

theorem parsePacket_of_short (h : bytes.length < 10) : parsePacket c bytes = .error .shortPacket := by
  unfold parsePacket
  split
  · simp only [List.length_cons] at h
    omega
  · rfl

/-! ### What the parser accepts (30_encoding.md R107, R110) -/

/-- One of the three codes, a Clear without a payload, a SetBrightness with one byte. -/
theorem parseCommand_eq_ok_iff : parseCommand c cmd f payload = .ok p ↔
    (cmd = c.cmdDraw ∧ p = .draw f payload) ∨ (cmd = c.cmdClear ∧ payload = [] ∧ p = .clear f) ∨
      (cmd = c.cmdSetBrightness ∧ ∃ level, payload = [level] ∧ p = .setBrightness f level) := by
  have hdc := c.draw_ne_clear
  have hds := c.draw_ne_setBrightness
  have hcs := c.clear_ne_setBrightness
  unfold parseCommand
  split_ifs with hd hc hs
  · subst hd; simp [hdc, hds, eq_comm]
  · subst hc; cases payload <;> simp [hdc.symm, hcs, eq_comm]
  · subst hs
    match payload with
    | [] => simp [hds.symm, hcs.symm]
    | [level] => simp [hds.symm, hcs.symm, eq_comm]
    | _ :: _ :: _ => simp [hds.symm, hcs.symm]
  · simp [hd, hc, hs]

/-- The bytes of a parsed packet: the header with its command's code, then the payload. -/
def Packet.words (c : Config) : Packet → List Byte
  | .draw f payload => encodeHeader c.hdrBigEndian c.cmdDraw f ++ payload
  | .clear f => encodeHeader c.hdrBigEndian c.cmdClear f ++ []
  | .setBrightness f level => encodeHeader c.hdrBigEndian c.cmdSetBrightness f ++ [level]

/-- The parser accepts a packet's own bytes and no others. -/
theorem parsePacket_eq_ok_iff : parsePacket c bytes = .ok p ↔ bytes = p.words c := by
  constructor
  · intro h
    have hlen : 10 ≤ bytes.length := by
      by_contra hlt
      rw [parsePacket_of_short (Nat.lt_of_not_le hlt)] at h
      cases h
    obtain ⟨cmd, f, payload, rfl⟩ := exists_header_append c.hdrBigEndian hlen
    rw [parsePacket_header_append, parseCommand_eq_ok_iff] at h
    obtain ⟨rfl, rfl⟩ | ⟨rfl, rfl, rfl⟩ | ⟨rfl, level, rfl, rfl⟩ := h <;> rfl
  · rintro rfl
    cases p <;> simp [Packet.words, parsePacket_header_append, parseCommand_eq_ok_iff, -List.append_nil]

/-! ### What the rows accept (30_encoding.md R109, R117) -/

/-- The packet of a row, the unused fields zero; an operation number has none. -/
def Instr.packet : Instr → Option Packet
  | .pktDraw x y w h payload => some (.draw ⟨x, y, w, h⟩ payload)
  | .pktClear => some (.clear ⟨0, 0, 0, 0⟩)
  | .pktSetBrightness level => some (.setBrightness ⟨0, 0, 0, 0⟩ level)
  | _ => none

theorem Instr.exists_packet_iff : (∃ p, i.packet = some p) ↔ i.space = .wire := by
  cases i <;> simp [Instr.packet, Instr.space]

/-- A row's words are its packet's bytes. -/
theorem encode_of_packet (h : i.packet = some p) : encode c i = p.words c := by
  cases i <;> cases h <;> simp [encode, Packet.words]

theorem Instr.packet_of_row (h : p.row c = .ok i) : i.packet = some p := by
  cases p with
  | draw f payload =>
    simp only [Packet.row] at h
    split_ifs at h
    cases h
    rfl
  | clear f =>
    simp only [Packet.row] at h
    split_ifs at h with hf
    cases h
    rw [hf]
    rfl
  | setBrightness f level =>
    simp only [Packet.row] at h
    split_ifs at h with _ hf
    cases h
    rw [hf]
    rfl

/-- On its own packet a row fails only for the length, and a Clear never does. -/
theorem Packet.row_of_packet (h : i.packet = some p) :
    p.row c = if c.maxPacketSize < headerSize + i.payload.length then .error .longPacket else .ok i := by
  cases i with
  | pktDraw x y w h' payload => cases h; rfl
  | pktClear => cases h; exact (if_neg c.header_le.not_gt).symm
  | pktSetBrightness level => cases h; rfl
  | _ => cases h

/-- A packet belongs to the well-formed instruction whose packet it is. -/
theorem Packet.row_eq_ok_iff : p.row c = .ok i ↔ i.packet = some p ∧ i.wf c = true := by
  rw [Laws.Encoded.wf_iff, ← Nat.not_lt]
  constructor
  · intro h
    have hp := Instr.packet_of_row h
    rw [Packet.row_of_packet hp] at h
    exact ⟨hp, fun hlt => by simp [hlt] at h⟩
  · rintro ⟨hp, hfits⟩
    rw [Packet.row_of_packet hp, if_neg hfits]

/-- A packet is decoded where it parses and its row takes it. -/
theorem decode_wire_eq_ok_iff_exists :
    decode c .wire bytes = .ok i ↔ ∃ p, parsePacket c bytes = .ok p ∧ p.row c = .ok i := by
  change decodePacket c bytes = .ok i ↔ _
  unfold decodePacket
  cases parsePacket c bytes <;> simp

/-- The decoder accepts the words of the well-formed packet rows, each as its own row, and nothing else. -/
theorem decode_wire_eq_ok_iff :
    decode c .wire bytes = .ok i ↔ i.space = .wire ∧ i.wf c = true ∧ encode c i = bytes := by
  rw [decode_wire_eq_ok_iff_exists, ← Instr.exists_packet_iff]
  simp only [parsePacket_eq_ok_iff, Packet.row_eq_ok_iff]
  constructor
  · rintro ⟨p, rfl, hp, hwf⟩
    exact ⟨⟨p, hp⟩, hwf, encode_of_packet hp⟩
  · rintro ⟨⟨p, hp⟩, hwf, rfl⟩
    exact ⟨p, encode_of_packet hp, hp, hwf⟩

/-- The byte that holds an operation's number is decoded to the operation (R112). -/
theorem decode_opReg_encode (c : Config) (h : i.space = .opReg) : decode c .opReg (encode c i) = .ok i := by
  cases i with
  | pktDraw | pktClear | pktSetBrightness => cases h
  | _ => rfl

/-- Settles O1: a packet row is what its words decode to, and an operation number is read back. -/
theorem decodeEncodeRoundTrip : Obligations.DecodeEncodeRoundTrip := by
  intro c i hwf
  cases hs : i.space with
  | wire => exact decode_wire_eq_ok_iff.mpr ⟨hs, hwf, rfl⟩
  | opReg => exact decode_opReg_encode c hs

/-- Settles O2: the other direction of the same equivalence. -/
theorem encodeDecodeRoundTrip : Obligations.EncodeDecodeRoundTrip := fun _ _ _ => decode_wire_eq_ok_iff.mp

/-- Settles O57: a packet's length is ten more than its payload's, and a packet is decoded only where it parses. -/
theorem parserTakesTheClosedCommandSet : Obligations.ParserTakesTheClosedCommandSet := by
  refine ⟨fun c bytes => parsePacket_of_short, fun c bytes hlen => ?_, fun c bytes i h => ?_⟩
  · obtain ⟨cmd, f, payload, rfl⟩ := exists_header_append c.hdrBigEndian hlen
    refine ⟨cmd, f, payload, rfl, ?_, fun p hp => ?_⟩
    · have h10 : (encodeHeader c.hdrBigEndian cmd f ++ payload).length = 10 ↔ payload = [] := by simp
      have h11 : (encodeHeader c.hdrBigEndian cmd f ++ payload).length = 11 ↔ ∃ level, payload = [level] := by
        rw [← List.length_eq_one_iff, List.length_append, encodeHeader_length]
        omega
      simp only [parsePacket_header_append, parseCommand_eq_ok_iff, h10, h11]
      simp [exists_or, ← and_assoc]
    · rw [parsePacket_header_append, parseCommand_eq_ok_iff] at hp
      exact hp.imp_right (.imp_left fun ⟨hcmd, _, hp⟩ => ⟨hcmd, hp⟩)
  · obtain ⟨p, hp, -⟩ := decode_wire_eq_ok_iff_exists.mp h
    exact ⟨p, hp⟩

/-- Settles O3: the packets are the encodings of their rows, and fit. -/
theorem specWordsDecode : Obligations.SpecWordsDecode := by
  intro c hdraw hclear hbright hbe hmax
  have accepted {i : Instr} {bytes : List Byte} (space : i.space = .wire) (hlen : i.payload.length ≤ 2)
      (he : encode c i = bytes) : decode c .wire bytes = .ok i :=
    decode_wire_eq_ok_iff.mpr ⟨space, (Laws.Encoded.wf_iff c i).mpr ((Nat.add_le_add_left hlen 10).trans hmax), he⟩
  refine ⟨accepted rfl (by decide) ?_, accepted rfl (by decide) ?_, accepted rfl (by decide) ?_, rfl, rfl⟩
  · rw [encode, hbe, hdraw]
    decide
  · rw [encode, hbe, hclear]
    decide
  · rw [encode, hbe, hbright]
    decide

end

/-! ### The header as one 80-bit value (30_encoding.md R104) -/

/-- `H = cmd ‖ xpos ‖ ypos ‖ xsize ‖ ysize`. -/
def headerValue (cmd : Half) (f : HeaderFields) : Nat :=
  (((cmd.toNat * 2 ^ 16 + f.xpos.toNat) * 2 ^ 16 + f.ypos.toNat) * 2 ^ 16 + f.xsize.toNat) * 2 ^ 16 + f.ysize.toNat

/-- The five slices of `H` are the five fields. -/
theorem headerValue_slices (cmd : Half) (f : HeaderFields) :
    headerValue cmd f / 2 ^ 64 = cmd.toNat ∧ headerValue cmd f / 2 ^ 48 % 2 ^ 16 = f.xpos.toNat ∧
    headerValue cmd f / 2 ^ 32 % 2 ^ 16 = f.ypos.toNat ∧ headerValue cmd f / 2 ^ 16 % 2 ^ 16 = f.xsize.toNat ∧
    headerValue cmd f % 2 ^ 16 = f.ysize.toNat := by
  unfold headerValue
  omega

/-- A field cut out of a number at bit `n` is sent as the bytes at bits `n + 8` and `n`. -/
theorem enc16_of_slice {v : Half} {h n : Nat} (hv : h / 2 ^ n % 2 ^ 16 = v.toNat) :
    enc16 true v = [BitVec.ofNat 8 (h / 2 ^ (n + 8)), BitVec.ofNat 8 (h / 2 ^ n)] := by
  have hhi : v.extractLsb' 8 8 = BitVec.ofNat 8 (h / 2 ^ (n + 8)) := by
    apply BitVec.eq_of_toNat_eq
    rw [BitVec.extractLsb'_toNat, BitVec.toNat_ofNat, Nat.shiftRight_eq_div_pow, Nat.pow_add, ← Nat.div_div_eq_div_mul]
    omega
  have hlo : v.extractLsb' 0 8 = BitVec.ofNat 8 (h / 2 ^ n) := by
    apply BitVec.eq_of_toNat_eq
    rw [BitVec.extractLsb'_toNat, BitVec.toNat_ofNat, Nat.shiftRight_zero]
    omega
  rw [← hhi, ← hlo]
  rfl

/-- The header's bytes are those of `H`, the most significant one first. -/
theorem encodeHeader_true_eq (cmd : Half) (f : HeaderFields) :
    encodeHeader true cmd f =
      (List.range 10).map fun i => BitVec.ofNat 8 (headerValue cmd f / 2 ^ (72 - 8 * i)) := by
  obtain ⟨hcmd, hx, hy, hw, hh⟩ := headerValue_slices cmd f
  rw [encodeHeader, enc16_of_slice (n := 64) (by rw [hcmd, Nat.mod_eq_of_lt cmd.isLt]), enc16_of_slice hx,
    enc16_of_slice hy, enc16_of_slice hw, enc16_of_slice (n := 0) (by rwa [Nat.pow_zero, Nat.div_one])]
  rfl

/-- Settles O4: the bytes and the slices of `H`, and the exchange in each of the five fields. -/
theorem headerIsEightyBitValue : Obligations.HeaderIsEightyBitValue := by
  intro cmd f
  refine ⟨fun i hi => ?_, fun j hj => ?_, headerValue_slices cmd f⟩
  · rw [encodeHeader_true_eq, List.getElem?_map, List.getElem?_range hi]
    rfl
  · interval_cases j <;> exact ⟨rfl, rfl⟩

end Sys2Proof
end

section
/-! Proofs of the family 40_dither.md: what one block step of DTH does to FB and ACC (R132 to R139), and what DITHER
leaves unchanged (R130, R131, R141). -/

namespace Sys2Proof.Machine

variable {s t : State}

/-! ### LOAD (40_dither.md R132) -/

/-- In phase LOAD the block step is LOAD's. -/
theorem State.advance_load (hs : s.stage = .idle) (hp : s.phase = .load) : s.advance = s.loadStep := by
  simp [State.advance, hs, hp]

/-- A sample in ACC is the byte read as an unsigned integer. -/
theorem toInt_setWidth_sample (b : Byte) : ((b.setWidth 16 : AccEntry)).toInt = b.toNat := by
  have := b.isLt
  rw [BitVec.toInt_setWidth, Int.bmod_eq_of_le (by omega) (by omega)]

/-- Settles O30: LOAD fills ACC from the frame and the bitmap region with zeros. -/
theorem loadCopiesThenZeroes : Obligations.LoadCopiesThenZeroes := by
  intro s hs hp
  rw [State.advance_load hs hp]
  refine ⟨fun i hi => ?_, fun a ha => ?_, fun a ha => ?_, rfl, rfl, rfl, rfl⟩
  · rw [s.loadStep_readAcc i hi, toInt_setWidth_sample]
  · rw [s.loadStep_readFb, if_pos ha]
  · rw [s.loadStep_readFb, if_neg (Nat.not_lt_of_le ha)]

/-! ### One pixel (40_dither.md R135 to R139) -/

/-- The mask of a column has the one bit of its place (40_dither.md R136). -/
theorem getLsbD_pixelMask (c p : Nat) : (pixelMask c).getLsbD p = decide (p = 7 - c % 8) := by
  rw [pixelMask, BitVec.getLsbD_twoPow, decide_eq_true (by omega), Bool.true_and]
  exact decide_eq_decide.mpr eq_comm

/-- A byte that is or-ed with the mask where `v` and `q` hold. -/
theorem getLsbD_ite_or_pixelMask (v : Bool) (q : Prop) [Decidable q] (x : Byte) (c p : Nat) :
    (if v = true ∧ q then x ||| pixelMask c else x).getLsbD p =
      (x.getLsbD p || (v && (decide q && decide (p = 7 - c % 8)))) := by
  cases v with
  | false => simp
  | true => by_cases hq : q <;> simp [hq, getLsbD_pixelMask]

/-- Settles O31: the one byte FB may change in is or-ed with the one bit of the mask. -/
theorem pixelSetsItsBit : Obligations.PixelSetsItsBit := by
  intro s r c a p _
  rw [State.readFb_pixelStep, getLsbD_ite_or_pixelMask]
  rfl

/-- What pixel (`r`, `c`) with the error `diff` adds to entry `i`, in a frame of `w * h` pixels (40_dither.md R139). -/
def errorInto (w h r c : Nat) (diff : Int) (i : Nat) : Int :=
  (if c + 1 < w ∧ i = r * w + c + 1 then errTerm 7 diff else 0) +
  (if r + 1 < h ∧ 1 ≤ c ∧ i = (r + 1) * w + c - 1 then errTerm 3 diff else 0) +
  (if r + 1 < h ∧ i = (r + 1) * w + c then errTerm 5 diff else 0) +
  (if r + 1 < h ∧ c + 1 < w ∧ i = (r + 1) * w + c + 1 then errTerm 1 diff else 0)

/-- The neighbour below on the left, where there is one, has the index the spec writes. -/
theorem below_left_iff {w r c i : Nat} :
    1 ≤ c ∧ i = (r + 1) * w + (c - 1) ↔ 1 ≤ c ∧ i = (r + 1) * w + c - 1 :=
  and_congr_right fun hc => by rw [Nat.add_sub_assoc hc]

/-- ACC after one pixel: every entry has got its share of the error. -/
theorem State.readAcc_pixelStep_eq_add (s : State) (r c i : Nat) :
    (s.pixelStep r c).readAcc i = s.readAcc i + BitVec.ofInt 16 (errorInto s.cfg.width s.cfg.height r c
      (quantError s.cfg.threshold (s.readAcc (r * s.cfg.width + c)).toInt) i) := by
  rw [State.readAcc_pixelStep]
  simp only [errorInto, BitVec.ofInt_add, below_left_iff, BitVec.add_assoc, and_assoc, Nat.add_assoc]

/-- Settles O32: the terms of `errorInto` are the quotients the spec writes. -/
theorem pixelDiffusesItsError : Obligations.PixelDiffusesItsError := by
  intro s r c i _ _
  rw [s.readAcc_pixelStep_eq_add]
  simp only [quantError, thresholdBit, decide_eq_true_eq]
  rfl

/-! ### What DITHER leaves unchanged (40_dither.md R130, R131, R141) -/

/-- No block step of DTH sets ERR.DIM. -/
theorem State.errDim_advance_dither (hs : s.stage = .idle) : s.advance.errDim = s.errDim := by
  have hpix : (s.pixelStep s.row s.col).errDim = s.errDim := by rw [s.pixelStep_eq]; rfl
  simp only [State.advance, hs]
  split
  · rfl
  · obtain ⟨-, h⟩ | ⟨-, -, h⟩ | ⟨-, -, h⟩ := s.scanStep_cases <;> rw [h] <;> exact hpix
  · rfl

/-- DITHER at work, wherever HOST's next access lands: its frame, and ERR.DIM as it was. -/
theorem State.frame_settle_startDither (hs : s.stage = .idle) :
    DitherFrame s s.startDither.settle ∧ s.startDither.settle.errDim = s.errDim := by
  have hstart : DitherFrame s s.startDither ∧ s.startDither.errDim = s.errDim := ⟨s.frame_startDither, rfl⟩
  refine State.settle_induct (fun t => DitherFrame s t ∧ t.errDim = s.errDim) (fun t ⟨hf, hd⟩ _ => ?_) hstart
  have ht : t.stage = .idle := hf.frm.1.trans hs
  exact ⟨hf.trans (t.frame_advance_dither ht), (State.errDim_advance_dither ht).trans hd⟩

/-- DITHER issued in a ready block checks the declared length. -/
theorem execDither_ready (hb : s.busy = false) (hh : s.halt = false) :
    exec .dither s = if s.fbLen.toNat ≠ s.cfg.pixels then .next (s.raise .invalidDimensions)
      else .next s.startDither.settle := s.issue_ready hb hh _

/-- Settles O36: the error sets its flag and drops a BUSY that is 0 already. -/
theorem ditherRejectsWrongLength : Obligations.DitherRejectsWrongLength := by
  intro s hb hh hlen
  refine ⟨s.raise .invalidDimensions, ?_, rfl, rfl, rfl, rfl, rfl, rfl, s.frame_raise_invalidDimensions, fun _ => rfl,
    fun _ => rfl⟩
  rw [execDither_ready hb hh, if_pos hlen]

/-- Settles O40: DITHER is ignored, rejected, or run by block steps of DTH. -/
theorem ditherKeepsItsFrame : Obligations.DitherKeepsItsFrame := by
  intro s t hb hs h
  obtain ⟨-, rfl⟩ | ⟨-, -, h⟩ := State.issue_cases h
  · rw [s.settle_idle hb]
    exact ⟨.refl s, fun _ => rfl, fun _ => ⟨fun _ => rfl, fun _ => rfl⟩⟩
  · split at h <;> cases h
    next hlen =>
      exact ⟨s.frame_raise_invalidDimensions, fun he => absurd he hlen, fun _ => ⟨fun _ => rfl, fun _ => rfl⟩⟩
    next hlen =>
      obtain ⟨hf, hd⟩ := s.frame_settle_startDither hs
      exact ⟨hf, fun _ => hd, fun hne => absurd hne hlen⟩

end Sys2Proof.Machine
end

section
/-! Proofs of the family 40_dither.md: DITHER as one function (R142), the range of its accumulator (R144), and its
bitmap of a frame of one value without error (R146). -/

namespace Sys2Proof.Machine

/-! ### The two loops of `dither_fn` as one (40_dither.md R133, R142) -/

/-- The pair (acc, bitmap) of `dither_fn` after the first `n` pixels in raster order. -/
def ditherAfter (frame : List Byte) (w h t n : Nat) : List Int × List Byte :=
  (List.range n).foldl (fun st m => ditherPixel w h t st (m / w) (m % w))
    (frame.map fun b => (b.toNat : Int), List.replicate (w / 8 * h) 0)

/-- Rows and columns in order are the indices in order. -/
theorem foldl_rows_eq_foldl_range {σ : Type} (f : σ → Nat → Nat → σ) (w h : Nat) (st : σ) :
    (List.range h).foldl (fun st r => (List.range w).foldl (fun st c => f st r c) st) st =
      (List.range (h * w)).foldl (fun st n => f st (n / w) (n % w)) st := by
  induction h with
  | zero => simp
  | succ h ih =>
    rw [List.range_succ, List.foldl_append, ih, Nat.add_one_mul, List.range_add, List.foldl_append, List.foldl_map,
      List.foldl_cons, List.foldl_nil]
    refine List.foldl_ext _ _ _ fun st c hc => ?_
    have hc : c < w := List.mem_range.mp hc
    obtain ⟨hdiv, hmod⟩ := (Nat.div_mod_unique (Nat.zero_lt_of_lt hc)).mpr
      (show c + w * h = h * w + c ∧ c < w from ⟨by rw [Nat.mul_comm, Nat.add_comm], hc⟩)
    rw [hdiv, hmod]

theorem ditherFn_eq (frame : List Byte) (w h t : Nat) : ditherFn frame w h t = (ditherAfter frame w h t (h * w)).2 :=
  congrArg Prod.snd (foldl_rows_eq_foldl_range (ditherPixel w h t) w h _)

theorem ditherAfter_succ (frame : List Byte) (w h t n : Nat) :
    ditherAfter frame w h t (n + 1) = ditherPixel w h t (ditherAfter frame w h t n) (n / w) (n % w) := by
  rw [ditherAfter, List.range_succ, List.foldl_append]
  rfl

/-! ### One pixel of `dither_fn` -/

section
variable {acc : List Int} {st : List Int × List Byte} {w h t r c : Nat}

@[simp] theorem length_addAt (acc : List Int) (i : Nat) (e : Int) : (addAt acc i e).length = acc.length :=
  List.length_set

@[simp] theorem length_ite_addAt (p : Prop) [Decidable p] (acc : List Int) (i : Nat) (e : Int) :
    (if p then addAt acc i e else acc).length = acc.length := by split <;> simp

/-- An entry after one error term. -/
theorem getD_ite_addAt {j : Nat} (hj : j < acc.length) (p : Prop) [Decidable p] (i : Nat) (e : Int) :
    (if p then addAt acc i e else acc).getD j 0 = acc.getD j 0 + if p ∧ j = i then e else 0 := by
  by_cases hp : p
  · by_cases hi : j = i
    · subst hi; simp [addAt, hp, hj]
    · simp [addAt, hp, hi, Ne.symm hi]
  · simp [hp]

@[simp] theorem ditherPixel_acc_length : (ditherPixel w h t st r c).1.length = st.1.length := by
  simp [ditherPixel]

@[simp] theorem ditherPixel_bitmap_length : (ditherPixel w h t st r c).2.length = st.2.length := by
  unfold ditherPixel
  dsimp only
  split
  · exact List.length_set
  · rfl

/-- An entry after one pixel: it has got its share of the error. -/
theorem ditherPixel_acc_getD {i : Nat} (hi : i < st.1.length) :
    (ditherPixel w h t st r c).1.getD i 0 =
      st.1.getD i 0 + errorInto w h r c (quantError t (st.1.getD (r * w + c) 0)) i := by
  simp only [ditherPixel, errorInto, getD_ite_addAt, length_ite_addAt, hi, Int.add_assoc, and_assoc]

/-- A byte of the bitmap after one pixel. -/
theorem ditherPixel_bitmap_getD {a : Nat} (ha : a < st.2.length) :
    (ditherPixel w h t st r c).2.getD a 0 =
      if thresholdBit t (st.1.getD (r * w + c) 0) = true ∧ a = r * (w / 8) + c / 8
      then st.2.getD a 0 ||| pixelMask c else st.2.getD a 0 := by
  unfold ditherPixel
  dsimp only
  by_cases hv : thresholdBit t (st.1.getD (r * w + c) 0) = true
  · by_cases hi : a = r * (w / 8) + c / 8
    · subst hi
      rw [if_pos hv, if_pos ⟨hv, rfl⟩]
      simp [ha]
    · rw [if_pos hv, if_neg fun h => hi h.2]
      simp [Ne.symm hi]
  · rw [if_neg hv, if_neg fun h => hv h.1]

end

theorem ditherAfter_acc_length (frame : List Byte) (w h t n : Nat) :
    (ditherAfter frame w h t n).1.length = frame.length := by
  induction n with
  | zero => simp [ditherAfter]
  | succ n ih => rw [ditherAfter_succ, ditherPixel_acc_length, ih]

theorem ditherAfter_bitmap_length (frame : List Byte) (w h t n : Nat) :
    (ditherAfter frame w h t n).2.length = w / 8 * h := by
  induction n with
  | zero => simp [ditherAfter]
  | succ n ih => rw [ditherAfter_succ, ditherPixel_bitmap_length, ih]

theorem ditherAfter_zero_acc_getD (frame : List Byte) (w h t : Nat) {i : Nat} (hi : i < frame.length) :
    (ditherAfter frame w h t 0).1.getD i 0 = (frame.getD i 0).toNat := by
  simp [ditherAfter, hi]

/-! ### The range of the accumulator (40_dither.md R144) -/

/-- A quantization error of an entry in range lies between `T - 254` and `T`. -/
theorem quantError_range {t : Nat} {v : Int} (hv : (t : Int) - 254 ≤ v ∧ v ≤ 255 + t) :
    (t : Int) - 254 ≤ quantError t v ∧ quantError t v ≤ t := by
  simp only [quantError, thresholdBit, decide_eq_true_eq]
  split <;> omega

/-- Truncation toward zero does not leave an interval that contains zero. -/
theorem sixteen_mul_quot_range {x a b : Int} (ha : a ≤ 0) (hb : 0 ≤ b) (hx : a ≤ x ∧ x ≤ b) :
    a ≤ 16 * quot x 16 ∧ 16 * quot x 16 ≤ b := by
  rw [quot_eq_signed_floor]
  split <;> omega

/-- A product of a weight and an error in range. -/
theorem weight_mul_range {t : Nat} {weight d : Int} (hw : 0 ≤ weight) (hd : (t : Int) - 254 ≤ d ∧ d ≤ t) :
    weight * ((t : Int) - 254) ≤ weight * d ∧ weight * d ≤ weight * t :=
  ⟨mul_le_mul_of_nonneg_left hd.1 hw, mul_le_mul_of_nonneg_left hd.2 hw⟩

/-- A term lies between `weight * (T - 254) / 16` and `weight * T / 16`. -/
theorem errTerm_range {t : Nat} (ht : t ≤ 254) {weight d : Int} (hw : 0 ≤ weight)
    (hd : (t : Int) - 254 ≤ d ∧ d ≤ t) :
    weight * ((t : Int) - 254) ≤ 16 * errTerm weight d ∧ 16 * errTerm weight d ≤ weight * t :=
  sixteen_mul_quot_range (mul_nonpos_of_nonneg_of_nonpos hw (by omega)) (mul_nonneg hw (by omega))
    (weight_mul_range hw hd)

/-- A bound on the sixteenths of error that entry `i` has got from the first `n` pixels, the borders of the frame not
looked at: 7 from its left neighbour, 3, 5 and 1 from the three above it. -/
def errorWeight (w n i : Nat) : Int :=
  (if i < n + 1 then 7 else 0) + (if i + 1 < n + w then 3 else 0) + (if i < n + w then 5 else 0) +
    (if i < n + w + 1 then 1 else 0)

theorem errorWeight_range (w n i : Nat) : 0 ≤ errorWeight w n i ∧ errorWeight w n i ≤ 16 := by
  unfold errorWeight
  omega

/-- What pixel `n` adds to the bound. -/
theorem errorWeight_succ {w n i : Nat} : errorWeight w (n + 1) i = errorWeight w n i +
    ((if i = n + 1 then 7 else 0) + (if i + 1 = n + w then 3 else 0) + (if i = n + w then 5 else 0) +
      (if i = n + w + 1 then 1 else 0)) := by
  unfold errorWeight
  omega

/-- A term given under a condition, against its weight counted under a weaker one. -/
theorem ite_errTerm_range {t : Nat} (ht : t ≤ 254) {weight d : Int} (hw : 0 ≤ weight)
    (hd : (t : Int) - 254 ≤ d ∧ d ≤ t) {p q : Prop} [Decidable p] [Decidable q] (hpq : p → q) :
    (if q then weight else 0) * ((t : Int) - 254) ≤ 16 * (if p then errTerm weight d else 0) ∧
      16 * (if p then errTerm weight d else 0) ≤ (if q then weight else 0) * t := by
  have hterm := errTerm_range ht hw hd
  have hneg : weight * ((t : Int) - 254) ≤ 0 := mul_nonpos_of_nonneg_of_nonpos hw (by omega)
  have hpos : 0 ≤ weight * (t : Int) := mul_nonneg hw (by omega)
  by_cases hp : p
  · simpa [hp, hpq hp] using hterm
  · by_cases hq : q
    · simpa [hp, hq] using ⟨hneg, hpos⟩
    · simp [hp, hq]

/-- The error that pixel `n` gives to entry `i`, against what it adds to the bound. -/
theorem errorInto_range {w h t r c n i : Nat} (ht : t ≤ 254) {d : Int} (hd : (t : Int) - 254 ≤ d ∧ d ≤ t)
    (hn : r * w + c = n) :
    (errorWeight w (n + 1) i - errorWeight w n i) * ((t : Int) - 254) ≤ 16 * errorInto w h r c d i ∧
      16 * errorInto w h r c d i ≤ (errorWeight w (n + 1) i - errorWeight w n i) * t := by
  have hbelow : (r + 1) * w = r * w + w := Nat.add_one_mul r w
  have h7 := ite_errTerm_range ht (weight := 7) (by decide) hd
    (p := c + 1 < w ∧ i = r * w + c + 1) (q := i = n + 1) (by omega)
  have h3 := ite_errTerm_range ht (weight := 3) (by decide) hd
    (p := r + 1 < h ∧ 1 ≤ c ∧ i = (r + 1) * w + c - 1) (q := i + 1 = n + w) (by omega)
  have h5 := ite_errTerm_range ht (weight := 5) (by decide) hd
    (p := r + 1 < h ∧ i = (r + 1) * w + c) (q := i = n + w) (by omega)
  have h1 := ite_errTerm_range ht (weight := 1) (by decide) hd
    (p := r + 1 < h ∧ c + 1 < w ∧ i = (r + 1) * w + c + 1) (q := i = n + w + 1) (by omega)
  rw [errorWeight_succ, add_sub_cancel_left]
  unfold errorInto
  constructor <;> linarith

/-- The bounds that follow from the weight of 16 that an entry gets at most. -/
theorem range_of_errorWeight {t w n i : Nat} (ht : t ≤ 254) {v : Int}
    (hv : errorWeight w n i * ((t : Int) - 254) ≤ 16 * v ∧ 16 * v ≤ 16 * 255 + errorWeight w n i * t) :
    (t : Int) - 254 ≤ v ∧ v ≤ 255 + t := by
  have h16 := (errorWeight_range w n i).2
  have hlow : 16 * ((t : Int) - 254) ≤ errorWeight w n i * ((t : Int) - 254) :=
    mul_le_mul_of_nonpos_right h16 (by omega)
  have hhigh : errorWeight w n i * (t : Int) ≤ 16 * t := mul_le_mul_of_nonneg_right h16 (by omega)
  omega

section
variable (frame : List Byte) {w h t n i : Nat}

/-- Every entry lies between a sample with its errors at their least and one with its errors at their greatest. -/
theorem ditherAfter_errorWeight_range (ht : t ≤ 254) (hn : n ≤ frame.length) (hi : i < frame.length) :
    errorWeight w n i * ((t : Int) - 254) ≤ 16 * (ditherAfter frame w h t n).1.getD i 0 ∧
      16 * (ditherAfter frame w h t n).1.getD i 0 ≤ 16 * 255 + errorWeight w n i * t := by
  induction n generalizing i with
  | zero =>
    have h0 := (errorWeight_range w 0 i).1
    have hlow : errorWeight w 0 i * ((t : Int) - 254) ≤ 0 := mul_nonpos_of_nonneg_of_nonpos h0 (by omega)
    have hhigh : 0 ≤ errorWeight w 0 i * (t : Int) := mul_nonneg h0 (by omega)
    have hsample := (frame.getD i 0).isLt
    rw [ditherAfter_zero_acc_getD frame w h t hi]
    omega
  | succ n ih =>
    have hplace : n / w * w + n % w = n := Nat.div_add_mod' n w
    have hd := quantError_range (range_of_errorWeight ht (ih (Nat.le_of_succ_le hn) hn))
    have hold := ih (Nat.le_of_succ_le hn) hi
    have hnew := errorInto_range (h := h) (i := i) ht hd hplace
    rw [ditherAfter_succ, ditherPixel_acc_getD (by rwa [ditherAfter_acc_length]), hplace]
    rw [sub_mul, sub_mul] at hnew
    omega

/-- Every entry lies between `T - 254` and `255 + T`. -/
theorem ditherAfter_range (ht : t ≤ 254) (hn : n ≤ frame.length) (hi : i < frame.length) :
    (t : Int) - 254 ≤ (ditherAfter frame w h t n).1.getD i 0 ∧ (ditherAfter frame w h t n).1.getD i 0 ≤ 255 + t :=
  range_of_errorWeight ht (ditherAfter_errorWeight_range frame ht hn hi)

end

/-! ### A frame of one value without error (40_dither.md R146) -/

/-- Place `p` of byte `a` of the bitmap is the pixel it belongs to (40_dither.md R136). -/
theorem bitmap_place_iff {w r c a p : Nat} (hw : w % 8 = 0) (hp : p < 8) :
    8 * a + (7 - p) = r * w + c ↔ a = r * (w / 8) + c / 8 ∧ p = 7 - c % 8 := by
  have hrow : r * w = 8 * (r * (w / 8)) := by
    rw [Nat.mul_left_comm, Nat.mul_div_cancel' (Nat.dvd_of_mod_eq_zero hw)]
  omega

/-- A frame of `b` whose quantization has no error: no entry changes, and each pixel's bit is that of `b`. -/
theorem ditherAfter_replicate {w h t n : Nat} {b : Byte} (hw : w % 8 = 0) (hb : quantError t b.toNat = 0)
    (hn : n ≤ h * w) :
    (∀ i < h * w, (ditherAfter (List.replicate (h * w) b) w h t n).1.getD i 0 = b.toNat) ∧
      ∀ a < w / 8 * h, ∀ p < 8, ((ditherAfter (List.replicate (h * w) b) w h t n).2.getD a 0).getLsbD p =
        (thresholdBit t b.toNat && decide (8 * a + (7 - p) < n)) := by
  induction n with
  | zero =>
    refine ⟨fun i hi => ?_, fun a ha p _ => ?_⟩
    · rw [ditherAfter_zero_acc_getD _ _ _ _ (by rwa [List.length_replicate]), List.getD_replicate _ hi]
    · simp [ditherAfter, ha]
  | succ n ih =>
    obtain ⟨hacc, hmap⟩ := ih (Nat.le_of_succ_le hn)
    have hplace : n / w * w + n % w = n := Nat.div_add_mod' n w
    rw [ditherAfter_succ]
    refine ⟨fun i hi => ?_, fun a ha p hp => ?_⟩
    · rw [ditherPixel_acc_getD (by simpa [ditherAfter_acc_length] using hi), hplace, hacc n hn, hacc i hi, hb]
      simp [errorInto, errTerm, quot]
    · have hbit := bitmap_place_iff (r := n / w) (c := n % w) (a := a) hw hp
      rw [hplace] at hbit
      have hmore : decide (8 * a + (7 - p) < n + 1) = (decide (8 * a + (7 - p) < n) ||
          (decide (a = n / w * (w / 8) + n % w / 8) && decide (p = 7 - n % w % 8))) := by
        simp only [Nat.lt_succ_iff_lt_or_eq, hbit, Bool.decide_or, Bool.decide_and]
      rw [ditherPixel_bitmap_getD (by rwa [ditherAfter_bitmap_length]), hplace, hacc n hn, getLsbD_ite_or_pixelMask,
        hmap a ha p hp, hmore, Bool.and_or_distrib_left]

/-- The bitmap of such a frame is `b`'s bit in every place. -/
theorem ditherFn_replicate {w h t : Nat} {b : Byte} (hw : w % 8 = 0) (hb : quantError t b.toNat = 0) :
    ditherFn (List.replicate (h * w) b) w h t =
      List.replicate (w / 8 * h) (if thresholdBit t b.toNat then 255 else 0) := by
  have hsize : 8 * (w / 8 * h) = h * w := by
    rw [← Nat.mul_assoc, Nat.mul_div_cancel' (Nat.dvd_of_mod_eq_zero hw), Nat.mul_comm]
  rw [ditherFn_eq]
  refine List.eq_replicate_iff.mpr ⟨ditherAfter_bitmap_length .., fun x hx => ?_⟩
  obtain ⟨a, ha, rfl⟩ := List.getElem_of_mem hx
  have ha' : a < w / 8 * h := by rwa [ditherAfter_bitmap_length] at ha
  refine BitVec.eq_of_getLsbD_eq fun p hp => ?_
  rw [← List.getD_eq_getElem _ 0 ha, (ditherAfter_replicate hw hb (Nat.le_refl _)).2 a ha' p hp,
    decide_eq_true (by omega), Bool.and_true]
  split
  next hv => rw [hv, show (255 : Byte) = BitVec.allOnes 8 from rfl, BitVec.getLsbD_allOnes, decide_eq_true hp]
  next hv => simpa using hv

end Sys2Proof.Machine
end

section
/-! Proofs of the family 40_dither.md: the run of DITHER visits the pixels in raster order (R133, R147), it is
`dither_fn` (R142), and what follows for its accumulator and its bitmap (R144 to R146). -/

namespace Sys2Proof.Machine

variable {s s' : State}

/-! ### The place of SCAN (40_dither.md R133, R147) -/

/-- ROW and COL are not part of FB, ... -/
theorem State.readFb_withPlace (s : State) (r c a : Nat) :
    ({ s with row := r, col := c } : State).readFb a = s.readFb a := rfl

/-- ... nor of ACC. -/
theorem State.readAcc_withPlace (s : State) (r c i : Nat) :
    ({ s with row := r, col := c } : State).readAcc i = s.readAcc i := rfl

/-- Every byte of the bitmap region has a specified value. -/
def State.BitmapSpecified (s : State) : Prop := ∀ a < s.cfg.bmpBytes, ∃ v, Memory.find s.fb a = some v

theorem State.loadStep_bitmapSpecified (s : State) : s.loadStep.BitmapSpecified := fun a (ha : a < s.cfg.bmpBytes) =>
  ⟨0, by rw [State.loadStep_fb, Memory.find_append, Memory.find_fill, if_pos ha]; rfl⟩

theorem State.BitmapSpecified.pixelStep (h : s.BitmapSpecified) (r c : Nat) : (s.pixelStep r c).BitmapSpecified := by
  intro a ha
  rw [State.pixelStep_cfg] at ha
  unfold State.pixelStep State.packBit
  simp only [State.diffuse_fb]
  split
  · rw [State.writeFb_fb, Memory.find_put]
    split
    · exact ⟨_, rfl⟩
    · exact h a ha
  · exact h a ha

/-- The end of DITHER keeps the bitmap (40_dither.md R141). -/
theorem State.BitmapSpecified.readFb_endDither (h : s.BitmapSpecified) {a : Nat} (ha : a < s.cfg.bmpBytes) :
    s.endDither.readFb a = s.readFb a := by
  obtain ⟨v, hv⟩ := h a ha
  rw [s.endDither_readFb a v ha hv, State.readFb, hv, Option.getD_some]

/-- DTH is about to process pixel `n` of the frame. -/
structure AtPixel (n : Nat) (s : State) : Prop where
  busy      : s.busy = true
  stage     : s.stage = .idle
  phase     : s.phase = .scan
  rowRange  : s.row < s.cfg.height
  colRange  : s.col < s.cfg.width
  place     : s.row * s.cfg.width + s.col = n
  specified : s.BitmapSpecified

section
variable {n : Nat}

theorem AtPixel.active (h : AtPixel n s) : s.active = true := s.active_of_busy h.busy (by simp [h.stage])

theorem AtPixel.advance_eq (h : AtPixel n s) : s.advance = s.scanStep := by simp [State.advance, h.stage, h.phase]

theorem AtPixel.row_col (h : AtPixel n s) : s.row = n / s.cfg.width ∧ s.col = n % s.cfg.width := by
  obtain ⟨hdiv, hmod⟩ := (Nat.div_mod_unique s.cfg.width_pos).mpr
    (show s.col + s.cfg.width * s.row = n ∧ s.col < s.cfg.width from
      ⟨by rw [← h.place, Nat.mul_comm, Nat.add_comm], h.colRange⟩)
  exact ⟨hdiv.symm, hmod.symm⟩

/-- Pixel `n` processed, and ROW and COL moved to pixel `m`. -/
theorem AtPixel.pixelStep_move (h : AtPixel n s) {r c m : Nat} (hr : r < s.cfg.height) (hc : c < s.cfg.width)
    (hm : r * s.cfg.width + c = m) : AtPixel m { s.pixelStep s.row s.col with row := r, col := c } where
  busy := by simpa using h.busy
  stage := by simpa using h.stage
  phase := by simpa using h.phase
  rowRange := by simpa using hr
  colRange := by simpa using hc
  place := by simpa using hm
  specified := h.specified.pixelStep s.row s.col

/-- The block step of pixel `n`: on to pixel `n + 1`, or after the last to the end. -/
theorem AtPixel.advance_cases (h : AtPixel n s) :
    (n + 1 < s.cfg.pixels ∧ AtPixel (n + 1) s.advance ∧
      ∃ r c, s.advance = { s.pixelStep s.row s.col with row := r, col := c }) ∨
    (n + 1 = s.cfg.pixels ∧ s.advance = (s.pixelStep s.row s.col).endDither) := by
  have hplace := h.place
  have hcol := h.colRange
  have hbelow : (s.row + 1) * s.cfg.width = s.row * s.cfg.width + s.cfg.width := Nat.add_one_mul ..
  rw [h.advance_eq]
  obtain ⟨hc, heq⟩ | ⟨hc, hr, heq⟩ | ⟨hc, hr, heq⟩ := s.scanStep_cases <;> rw [heq]
  · have hlt := s.cfg.pixel_lt h.rowRange hc
    have hnext := h.pixelStep_move (r := (s.pixelStep s.row s.col).row) (m := n + 1) (by simpa using h.rowRange) hc
      (by rw [State.pixelStep_row]; omega)
    exact .inl ⟨by omega, hnext, _, _, rfl⟩
  · have hlt := s.cfg.pixel_lt hr s.cfg.width_pos
    exact .inl ⟨by omega, h.pixelStep_move hr s.cfg.width_pos (by omega), _, _, rfl⟩
  · have hlast : s.cfg.pixels = (s.row + 1) * s.cfg.width := by
      rw [Config.pixels, Nat.mul_comm, show s.cfg.height = s.row + 1 from Nat.le_antisymm hr h.rowRange]
    exact .inr ⟨by omega, rfl⟩

end

/-- LOAD leaves DTH at the first pixel. -/
theorem atPixel_loadStep (hb : s.busy = true) (hs : s.stage = .idle) : AtPixel 0 s.loadStep :=
  ⟨hb, hs, rfl, s.cfg.height_pos, s.cfg.width_pos, by simp, s.loadStep_bitmapSpecified⟩

/-- The first block step of DITHER is LOAD's. -/
theorem runFor_one_startDither (hs : s.stage = .idle) : runFor 1 s.startDither = s.startDither.loadStep := by
  rw [runFor_active _ _ (State.active_of_busy _ rfl (by simp [hs])), runFor_zero,
    State.advance_load (s := s.startDither) hs rfl]

/-- One more block step of a run. -/
theorem runFor_succ {n : Nat} (h : (runFor n s).active = true) : runFor (n + 1) s = (runFor n s).advance := by
  rw [runFor_add, runFor_active _ _ h, runFor_zero]

/-- After LOAD and `n` pixels DTH is at pixel `n`. -/
theorem atPixel_runFor (hs : s.stage = .idle) {n : Nat} (hn : n < s.cfg.pixels) :
    AtPixel n (runFor (n + 1) s.startDither) := by
  induction n with
  | zero =>
    rw [runFor_one_startDither hs]
    exact atPixel_loadStep rfl hs
  | succ n ih =>
    have h := ih (Nat.lt_of_succ_lt hn)
    rw [runFor_succ h.active]
    obtain ⟨-, hnext, -⟩ | ⟨hlast, -⟩ := h.advance_cases
    · exact hnext
    · rw [runFor_cfg, State.startDither_cfg] at hlast
      omega

/-- The whole run of DITHER ends with the last pixel. -/
theorem exists_atPixel_endDither (hs : s.stage = .idle) : ∃ u, AtPixel (s.cfg.pixels - 1) u ∧
    u = runFor s.cfg.pixels s.startDither ∧
    runFor (s.cfg.pixels + 1) s.startDither = (u.pixelStep u.row u.col).endDither := by
  have hpos : 0 < s.cfg.pixels := Nat.zero_lt_of_lt (s.cfg.pixel_lt s.cfg.height_pos s.cfg.width_pos)
  have h := atPixel_runFor hs (Nat.sub_one_lt_of_lt hpos)
  rw [Nat.sub_one_add_one hpos.ne'] at h
  refine ⟨_, h, rfl, ?_⟩
  rw [runFor_succ h.active]
  obtain ⟨hlt, -⟩ | ⟨-, hend⟩ := h.advance_cases
  · rw [runFor_cfg, State.startDither_cfg] at hlt
    omega
  · exact hend

/-- Settles O33: SCAN is at pixel `n` after LOAD and `n` pixels, and its step is that pixel's. -/
theorem scanVisitsPixelsInRasterOrder : Obligations.ScanVisitsPixelsInRasterOrder := by
  intro s hs
  refine ⟨fun n hn => ?_, ?_⟩
  · intro u
    have hu : AtPixel n u := atPixel_runFor hs hn
    have hcfg : u.cfg = s.cfg := runFor_cfg _
    obtain ⟨hrow, hcol⟩ := hu.row_col
    rw [hcfg] at hrow hcol
    refine ⟨hu.busy, hu.phase, hrow, hcol, runFor_succ hu.active, ?_⟩
    obtain ⟨-, -, r, c, hnext⟩ | ⟨hlast, hend⟩ := hu.advance_cases
    · rw [hnext]
      exact ⟨fun _ _ => State.readFb_withPlace .., fun _ => ⟨fun _ => State.readFb_withPlace ..,
        fun _ => State.readAcc_withPlace ..⟩⟩
    · rw [hend]
      rw [hcfg] at hlast
      exact ⟨fun a ha => (hu.specified.pixelStep _ _).readFb_endDither (by simpa [hcfg] using ha), fun hlt => by omega⟩
  · obtain ⟨u, -, -, hend⟩ := exists_atPixel_endDither hs
    rw [hend]
    exact ⟨rfl, rfl⟩

/-! ### The machine and `dither_fn` (40_dither.md R142) -/

/-- ACC and the bitmap region of the machine are those of `dither_fn`, ACC in 16 bits. -/
structure Simulates (s : State) (st : List Int × List Byte) : Prop where
  accLength    : st.1.length = s.cfg.pixels
  bitmapLength : st.2.length = s.cfg.bmpBytes
  acc          : ∀ i < s.cfg.pixels, s.readAcc i = BitVec.ofInt 16 (st.1.getD i 0)
  bitmap       : ∀ a < s.cfg.bmpBytes, s.readFb a = st.2.getD a 0

section
variable {st : List Int × List Byte}

/-- Only ACC and FB matter. -/
theorem Simulates.of_eq (h : Simulates s st) (hcfg : s'.cfg = s.cfg) (hacc : ∀ i, s'.readAcc i = s.readAcc i)
    (hfb : ∀ a < s.cfg.bmpBytes, s'.readFb a = s.readFb a) : Simulates s' st where
  accLength := by rw [hcfg, h.accLength]
  bitmapLength := by rw [hcfg, h.bitmapLength]
  acc i hi := by rw [hacc, h.acc i (hcfg ▸ hi)]
  bitmap a ha := by rw [hfb a (hcfg ▸ ha), h.bitmap a (hcfg ▸ ha)]

/-- One pixel keeps the simulation, where the pixel's own entry is the integer of `dither_fn`. -/
theorem Simulates.pixelStep (h : Simulates s st) {r c : Nat}
    (hv : (s.readAcc (r * s.cfg.width + c)).toInt = st.1.getD (r * s.cfg.width + c) 0) :
    Simulates (s.pixelStep r c) (ditherPixel s.cfg.width s.cfg.height s.cfg.threshold st r c) where
  accLength := by rw [ditherPixel_acc_length, State.pixelStep_cfg, h.accLength]
  bitmapLength := by rw [ditherPixel_bitmap_length, State.pixelStep_cfg, h.bitmapLength]
  acc i hi := by
    rw [State.pixelStep_cfg] at hi
    rw [s.readAcc_pixelStep_eq_add, hv, ditherPixel_acc_getD (by rwa [h.accLength]), BitVec.ofInt_add, h.acc i hi]
  bitmap a ha := by
    rw [State.pixelStep_cfg] at ha
    rw [s.readFb_pixelStep, hv, ditherPixel_bitmap_getD (by rwa [h.bitmapLength]), h.bitmap a ha]
    rfl

end

/-- `dither_fn` on the frame of a machine, after `n` pixels. -/
def State.ditherAfter (s : State) (n : Nat) : List Int × List Byte :=
  Machine.ditherAfter (s.memRead 0 s.cfg.pixels) s.cfg.width s.cfg.height s.cfg.threshold n

/-- The entries of `dither_fn` on a machine's frame are in range (40_dither.md R144). -/
theorem State.ditherAfter_range (s : State) {n i : Nat} (hn : n ≤ s.cfg.pixels) (hi : i < s.cfg.pixels) :
    (s.cfg.threshold : Int) - 254 ≤ (s.ditherAfter n).1.getD i 0 ∧
      (s.ditherAfter n).1.getD i 0 ≤ 255 + s.cfg.threshold :=
  Machine.ditherAfter_range _ s.cfg.threshold_le (by rwa [State.memRead_length]) (by rwa [State.memRead_length])

/-- So they fit 16 bits, and a machine that simulates `dither_fn` has them as they are. -/
theorem Simulates.toInt_readAcc {u : State} {n i : Nat} (h : Simulates u (s.ditherAfter n)) (hcfg : u.cfg = s.cfg)
    (hn : n ≤ s.cfg.pixels) (hi : i < s.cfg.pixels) : (u.readAcc i).toInt = (s.ditherAfter n).1.getD i 0 := by
  have hrange := s.ditherAfter_range hn hi
  have ht := s.cfg.threshold_le
  rw [h.acc i (hcfg ▸ hi), BitVec.toInt_ofInt_eq_self (by decide) (by omega) (by omega)]

/-- LOAD leaves what `dither_fn` begins with. -/
theorem simulates_loadStep (s : State) : Simulates s.loadStep (s.ditherAfter 0) where
  accLength := by rw [State.ditherAfter, ditherAfter_acc_length, State.memRead_length, State.loadStep_cfg]
  bitmapLength := ditherAfter_bitmap_length ..
  acc i (hi : i < s.cfg.pixels) := by
    rw [State.ditherAfter, ditherAfter_zero_acc_getD _ _ _ _ (by rwa [State.memRead_length]), s.memRead_getD _ _ _ hi,
      Nat.zero_add, BitVec.ofInt_natCast, BitVec.ofNat_toNat, s.loadStep_readAcc i hi]
  bitmap a (ha : a < s.cfg.bmpBytes) := by
    rw [s.loadStep_readFb, if_pos ha]
    exact (List.getD_replicate _ ha).symm

/-- The pixel a machine is at, in the machine and in `dither_fn`. -/
theorem AtPixel.simulates_pixelStep {u : State} {n : Nat} (hu : AtPixel n u) (h : Simulates u (s.ditherAfter n))
    (hcfg : u.cfg = s.cfg) (hn : n < s.cfg.pixels) : Simulates (u.pixelStep u.row u.col) (s.ditherAfter (n + 1)) := by
  have hv := h.toInt_readAcc hcfg (Nat.le_of_lt hn) hn
  have hstep := h.pixelStep (by rw [hu.place, hv])
  obtain ⟨hrow, hcol⟩ := hu.row_col
  rw [State.ditherAfter, ditherAfter_succ, ← hcfg, ← hrow, ← hcol]
  rwa [State.ditherAfter, ← hcfg] at hstep

/-- After LOAD and `n` pixels the machine is where `dither_fn` is. -/
theorem simulates_runFor (hs : s.stage = .idle) {n : Nat} (hn : n < s.cfg.pixels) :
    Simulates (runFor (n + 1) s.startDither) (s.ditherAfter n) := by
  induction n with
  | zero =>
    rw [runFor_one_startDither hs]
    exact simulates_loadStep s.startDither
  | succ n ih =>
    have hn' := Nat.lt_of_succ_lt hn
    have hu := atPixel_runFor hs hn'
    have hstep := hu.simulates_pixelStep (ih hn') (runFor_cfg _) hn'
    rw [runFor_succ hu.active]
    obtain ⟨-, -, r, c, hnext⟩ | ⟨hlast, -⟩ := hu.advance_cases
    · rw [hnext]
      exact hstep.of_eq rfl (fun _ => State.readAcc_withPlace ..) (fun _ _ => State.readFb_withPlace ..)
    · rw [runFor_cfg, State.startDither_cfg] at hlast
      omega

/-- A run of DITHER that is in phase SCAN stands at a pixel of the frame. -/
theorem exists_pixel_of_scan (hs : s.stage = .idle) {n : Nat} (hp : (runFor n s.startDither).phase = .scan) :
    ∃ m < s.cfg.pixels, n = m + 1 := by
  cases n with
  | zero => cases hp
  | succ m =>
    refine ⟨m, Nat.lt_of_not_le fun hm => ?_, rfl⟩
    obtain ⟨k, hk⟩ : ∃ k, m + 1 = s.cfg.pixels + 1 + k := Nat.exists_eq_add_of_le (Nat.succ_le_succ hm)
    obtain ⟨u, -, -, hend⟩ := exists_atPixel_endDither hs
    rw [hk, runFor_add, hend, runFor_inactive _ _ (State.inactive_of_idle _ rfl)] at hp
    cases hp

/-- Settles O34: the entries are those of `dither_fn`, and each term is bounded by its weight. -/
theorem accumulatorStaysInRange : Obligations.AccumulatorStaysInRange := by
  intro s n hs hp
  obtain ⟨m, hm, rfl⟩ := exists_pixel_of_scan hs hp
  intro u t
  have hu : AtPixel m u := atPixel_runFor hs hm
  have hcfg : u.cfg = s.cfg := runFor_cfg _
  have ht : t ≤ 254 := Int.ofNat_le.mpr s.cfg.threshold_le
  have ht0 : 0 ≤ t := Int.natCast_nonneg _
  have hacc : ∀ i < s.cfg.pixels, t - 254 ≤ (u.readAcc i).toInt ∧ (u.readAcc i).toInt ≤ 255 + t := fun i hi => by
    rw [(simulates_runFor hs hm).toInt_readAcc hcfg (Nat.le_of_lt hm) hi]
    exact s.ditherAfter_range (Nat.le_of_lt hm) hi
  have hplace : u.row * s.cfg.width + u.col < s.cfg.pixels := by rwa [← hcfg, hu.place, hcfg]
  have hd := quantError_range (hacc _ hplace)
  refine ⟨hacc, ⟨hd.1, hd.2, fun w hw => ?_⟩, by omega, by omega, by omega⟩
  have hw : 0 ≤ w ∧ w ≤ 7 := by
    revert w
    decide
  have hterm := errTerm_range s.cfg.threshold_le hw.1 hd
  have hproduct := weight_mul_range hw.1 hd
  have hlow : 7 * (t - 254) ≤ w * (t - 254) := mul_le_mul_of_nonpos_right hw.2 (by omega)
  have hhigh : w * t ≤ 7 * t := mul_le_mul_of_nonneg_right hw.2 ht0
  exact ⟨hterm.1, hterm.2, hlow.trans hproduct.1, hproduct.2.trans hhigh⟩

/-! ### The whole operation (40_dither.md R130, R141 to R146) -/

/-- A slice from address 0 is a list that has its bytes. -/
theorem State.memRead_eq_of_getD {n : Nat} {bytes : List Byte} (hlen : bytes.length = n)
    (h : ∀ a < n, s.readFb a = bytes.getD a 0) : s.memRead 0 n = bytes := by
  refine List.ext_getElem (by rw [State.memRead_length, hlen]) fun a ha hb => ?_
  have ha : a < n := by rwa [State.memRead_length] at ha
  rw [← List.getD_eq_getElem _ 0 hb, ← h a ha, ← List.getD_eq_getElem _ 0, s.memRead_getD _ _ _ ha, Nat.zero_add]

/-- DITHER with FB_LEN = PIXELS issued in a ready block. -/
theorem execDither_next (hr : Ready s) (hlen : s.fbLen.toNat = s.cfg.pixels) :
    exec .dither s = .next s.startDither.settle := by
  rw [execDither_ready hr.busy hr.halt, if_neg (not_not_intro hlen)]

/-- Where HOST waits, DITHER runs to its end: the last pixel, then what `endDither` does, and the bitmap is that of
`dither_fn`. -/
theorem Ready.exists_endDither (hr : Ready s) : ∃ v : State, s.startDither.settle = v.endDither ∧
    s.startDither.settle.memRead 0 s.cfg.bmpBytes =
      ditherFn (s.memRead 0 s.cfg.pixels) s.cfg.width s.cfg.height s.cfg.threshold := by
  obtain ⟨u, hu, hrun, hend⟩ := exists_atPixel_endDither hr.stage
  have hcfg : u.cfg = s.cfg := by rw [hrun, runFor_cfg, State.startDither_cfg]
  have hlast : s.cfg.pixels - 1 + 1 = s.cfg.pixels :=
    Nat.sub_one_add_one (Nat.zero_lt_of_lt (s.cfg.pixel_lt s.cfg.height_pos s.cfg.width_pos)).ne'
  have hlt : s.cfg.pixels - 1 < s.cfg.pixels := by omega
  have hsim : Simulates u (s.ditherAfter (s.cfg.pixels - 1)) := by
    have h := simulates_runFor hr.stage hlt
    rwa [hlast, ← hrun] at h
  have hpix := hu.simulates_pixelStep hsim hcfg hlt
  have hsettle : s.startDither.settle = (u.pixelStep u.row u.col).endDither := by
    rw [← hend, State.settle, State.startDither_window, hr.window]
    rfl
  refine ⟨_, hsettle, ?_⟩
  rw [hsettle, ditherFn_eq, Nat.mul_comm]
  rw [hlast] at hpix
  refine State.memRead_eq_of_getD (ditherAfter_bitmap_length ..) fun a ha => ?_
  have ha : a < (u.pixelStep u.row u.col).cfg.bmpBytes := by rwa [State.pixelStep_cfg, hcfg]
  rw [(hu.specified.pixelStep _ _).readFb_endDither ha, hpix.bitmap a ha]
  rfl

/-- Settles O35: the run ends in the bitmap of `dither_fn`, by block steps of DTH alone. -/
theorem ditherIsDitherFn : Obligations.DitherIsDitherFn := by
  intro s hr hlen
  obtain ⟨v, hend, hbitmap⟩ := hr.exists_endDither
  obtain ⟨hf, hd⟩ := s.frame_settle_startDither hr.stage
  obtain ⟨hstage, -, -, -, htimer⟩ := hf.frm
  refine ⟨_, execDither_next hr hlen, hbitmap, hf, hd, ?_⟩
  exact ⟨by rw [hend]; rfl, by rw [hend]; rfl, hstage.trans hr.stage, by rw [hend]; rfl, htimer.trans hr.timer⟩

/-- A byte of the bitmap after DITHER. -/
theorem Ready.readFb_settle_startDither (hr : Ready s) {a : Nat} (ha : a < s.cfg.bmpBytes) :
    s.startDither.settle.readFb a =
      (ditherFn (s.memRead 0 s.cfg.pixels) s.cfg.width s.cfg.height s.cfg.threshold).getD a 0 := by
  obtain ⟨-, -, hbitmap⟩ := hr.exists_endDither
  rw [← hbitmap, State.memRead_getD _ _ _ _ ha, Nat.zero_add]

/-- Settles O37: equal frames and parameters are equal arguments of `dither_fn`. -/
theorem ditherDependsOnFrameOnly : Obligations.DitherDependsOnFrameOnly := by
  intro s s' hr hr' hw hh ht hlen hlen' hframe
  have hpixels : s.cfg.pixels = s'.cfg.pixels := by rw [Config.pixels, Config.pixels, hw, hh]
  have hbmp : s.cfg.bmpBytes = s'.cfg.bmpBytes := by
    rw [Config.bmpBytes, Config.bmpBytes, Config.rowBytes, Config.rowBytes, hw, hh]
  have hread : s.memRead 0 s.cfg.pixels = s'.memRead 0 s.cfg.pixels :=
    State.memRead_eq_of_getD (State.memRead_length ..) fun a ha => by
      rw [State.memRead_getD _ _ _ _ ha, Nat.zero_add, hframe a ha]
  refine ⟨_, _, execDither_next hr hlen, execDither_next hr' hlen', fun a ha => ?_⟩
  rw [hr.readFb_settle_startDither ha, hr'.readFb_settle_startDither (hbmp ▸ ha), hread, ← hpixels, hw, hh, ht]

/-- The bitmap of a frame of one value without error. -/
theorem Ready.readFb_settle_of_flat (hr : Ready s) {b : Byte} (hb : quantError s.cfg.threshold b.toNat = 0)
    (hframe : ∀ a < s.cfg.pixels, s.readFb a = b) {a : Nat} (ha : a < s.cfg.bmpBytes) :
    s.startDither.settle.readFb a = if thresholdBit s.cfg.threshold b.toNat then 255 else 0 := by
  have hread : s.memRead 0 s.cfg.pixels = List.replicate (s.cfg.height * s.cfg.width) b :=
    State.memRead_eq_of_getD (by rw [List.length_replicate, Nat.mul_comm]; rfl) fun i hi => by
      rw [hframe i hi, List.getD_replicate _ (by rwa [Nat.mul_comm])]
  rw [hr.readFb_settle_startDither ha, hread, ditherFn_replicate s.cfg.width_mod hb]
  exact List.getD_replicate _ ha

/-- Settles O38: black and white pixels have no quantization error, for every legal T. -/
theorem extremeFramesGiveExtremeBitmaps : Obligations.ExtremeFramesGiveExtremeBitmaps := by
  refine ⟨fun c frame _ => by rw [ditherFn_eq, ditherAfter_bitmap_length], fun s hr hlen => ?_⟩
  have ht := s.cfg.threshold_le
  have hblack : thresholdBit s.cfg.threshold (0 : Byte).toNat = false :=
    decide_eq_false (show ¬ (s.cfg.threshold : Int) < 0 by omega)
  have hwhite : thresholdBit s.cfg.threshold (255 : Byte).toNat = true :=
    decide_eq_true (show (s.cfg.threshold : Int) < 255 by omega)
  refine ⟨fun hframe => ?_, fun hframe => ?_⟩ <;> refine ⟨_, execDither_next hr hlen, fun a ha => ?_⟩
  · rw [hr.readFb_settle_of_flat (by rw [quantError, hblack]; rfl) hframe ha, hblack]
    rfl
  · rw [hr.readFb_settle_of_flat (by rw [quantError, hwhite]; rfl) hframe ha, hwhite]
    rfl

end Sys2Proof.Machine
end

section
/-! Proofs of the family 40_dither.md: every operation ends, or waits for SINK, within the block steps it is given
(R147; 70_reset_and_hazards.md R276). -/

namespace Sys2Proof.Machine

variable {s : State}

/-- A bound on the block steps the operation in progress has still to make: LOAD and a step for each pixel left (R147),
four stages for each packet left. -/
def State.remaining (s : State) : Nat :=
  match s.stage with
  | .build => 4 * (s.packets - s.k)
  | .handOver => 4 * (s.packets - s.k) - 1
  | .await => 4 * (s.packets - s.k) - 2
  | .pace => 4 * (s.packets - s.k) - 3
  | .idle =>
    match s.phase with
    | .load => s.cfg.pixels + 1
    | .scan => s.cfg.pixels - (s.row * s.cfg.width + s.col)
    | .idle => 0

theorem State.remaining_of_idle (hs : s.stage = .idle) (hp : s.phase = .idle) : s.remaining = 0 := by
  simp [State.remaining, hs, hp]

/-- FRM at a packet of its operation has at least a step and at most four steps a packet to make. -/
theorem State.remaining_framer (hs : s.stage ≠ .idle) (hk : s.k < s.packets) :
    0 < s.remaining ∧ s.remaining ≤ 4 * s.packets := by
  cases hstage : s.stage with
  | idle => exact absurd hstage hs
  | build | handOver | await | pace =>
    simp only [State.remaining, hstage]
    omega

/-- `State.work` counts four block steps a packet. -/
theorem State.work_framer (hj : s.job ≠ some .dither) : s.work = 4 * s.packets := by
  unfold State.work State.packets
  split
  next h => simp [h]
  next h => exact absurd h hj
  next h => simp [h]

theorem State.Inv.remaining_pos (h : s.Inv) (hs : s.stage ≠ .idle) : 0 < s.remaining := by
  obtain ⟨-, -, -, hk, -⟩ := h.frm hs
  exact (State.remaining_framer hs hk).1

/-- So it counts enough of them for the operation in progress. -/
theorem State.Inv.remaining_le_work (h : s.Inv) : s.remaining ≤ s.work := by
  by_cases hs : s.stage = .idle
  · cases hp : s.phase with
    | idle => simp [State.remaining, hs, hp]
    | load => simp [State.remaining, hs, hp, State.work, h.dthJob]
    | scan =>
      simp only [State.remaining, hs, hp, State.work, h.dthJob (by simp [hp])]
      omega
  · obtain ⟨-, -, hj, hk, -⟩ := h.frm hs
    rw [State.work_framer hj]
    exact (State.remaining_framer hs hk).2

/-! ### Every block step of a block that has one to make leaves fewer -/

/-- Every packet of an operation of FRM has a command. -/
theorem State.exists_command (k : Nat) {j : Job} (hj : j ≠ .dither) : ∃ m, s.command k j = some m := by
  cases j with
  | dither => exact absurd rfl hj
  | clear | bright | draw | stream | streambuf => exact ⟨_, rfl⟩

theorem State.takeAnswer_packets (a : Answer) (rest : List Answer) : (s.takeAnswer a rest).packets = s.packets := by
  cases a <;> rfl

theorem State.Inv.remaining_buildStep_lt (h : s.Inv) (hs : s.stage = .build) : s.buildStep.remaining < s.remaining := by
  obtain ⟨hb, hp, hj, -⟩ := h.frm (by simp [hs])
  obtain ⟨j, hjob⟩ := Option.ne_none_iff_exists'.mp (h.busyJob.mp hb)
  obtain ⟨m, hm⟩ := s.exists_command s.k (j := j) (by simpa [hjob] using hj)
  have hpos := h.remaining_pos (by simp [hs])
  simp only [State.buildStep, hjob, Option.bind_some, hm]
  split
  · rwa [State.remaining_of_idle (s := s.raise .packetTooLarge) rfl hp]
  · show 4 * (s.packets - s.k) - 1 < s.remaining
    simp only [State.remaining, hs] at hpos ⊢
    omega

theorem State.Inv.remaining_awaitStep_lt (h : s.Inv) (hs : s.stage = .await) (hsink : s.sink ≠ []) :
    s.awaitStep.remaining < s.remaining := by
  have hp := (h.frm (by simp [hs])).2.1
  have hpos := h.remaining_pos (by simp [hs])
  unfold State.awaitStep
  split
  next h => exact absurd h hsink
  next a rest _ =>
    unfold State.afterAnswer
    split
    · show 4 * ((s.takeAnswer a rest).packets - (s.takeAnswer a rest).k) - 3 < s.remaining
      rw [State.takeAnswer_packets, State.takeAnswer_k]
      simp only [State.remaining, hs] at hpos ⊢
      omega
    · rwa [State.remaining_of_idle rfl (by simpa using hp)]

theorem State.Inv.remaining_scanStep_lt (h : s.Inv) (hs : s.stage = .idle) (hp : s.phase = .scan) :
    s.scanStep.remaining < s.remaining := by
  have hplace := s.cfg.pixel_lt h.rowRange h.colRange
  have hcol := h.colRange
  have hold : s.remaining = s.cfg.pixels - (s.row * s.cfg.width + s.col) := by simp only [State.remaining, hs, hp]
  obtain ⟨-, heq⟩ | ⟨-, -, heq⟩ | ⟨-, -, heq⟩ := s.scanStep_cases <;> rw [heq, hold]
  · simp only [State.remaining, State.pixelStep_stage, hs, State.pixelStep_phase, hp, State.pixelStep_cfg,
      State.pixelStep_row]
    omega
  · simp only [State.remaining, State.pixelStep_stage, hs, State.pixelStep_phase, hp, State.pixelStep_cfg,
      Nat.add_one_mul]
    omega
  · rw [State.remaining_of_idle (by simpa using hs) rfl]
    omega

/-- Where the block has a step to make, the step leaves fewer to make. -/
theorem State.Inv.remaining_advance_lt (h : s.Inv) (ha : s.active = true) : s.advance.remaining < s.remaining := by
  unfold State.advance
  split
  next hs => exact h.remaining_buildStep_lt hs
  next hs =>
    have hpos := h.remaining_pos (by simp [hs])
    simp only [State.remaining, hs] at hpos ⊢
    show 4 * (s.packets - s.k) - 2 < _
    omega
  next hs =>
    exact h.remaining_awaitStep_lt hs (by simpa [State.active, State.waiting, hs, State.busy_of_active ha] using ha)
  next hs =>
    have hpos := h.remaining_pos (by simp [hs])
    simp only [State.remaining, hs] at hpos ⊢
    show 4 * (s.packets - (s.k + 1)) < _
    omega
  next hs =>
    split
    next hp => simp [State.remaining, hs, hp]
    next hp => exact h.remaining_scanStep_lt hs hp
    next hp => exact absurd (h.busyUnit.mp (State.busy_of_active ha)) (by simp [hs, hp])

/-- A run of as many block steps as remain ends, or waits. -/
theorem State.Inv.inactive_runFor {n : Nat} (h : s.Inv) (hn : s.remaining ≤ n) : (runFor n s).active = false := by
  induction n generalizing s with
  | zero =>
    refine Bool.eq_false_iff.mpr fun ha => ?_
    have := h.remaining_advance_lt ha
    omega
  | succ n ih =>
    by_cases ha : s.active = true
    · have := h.remaining_advance_lt ha
      rw [runFor_active _ _ ha]
      exact ih h.advance (by omega)
    · have ha : s.active = false := by simpa using ha
      rwa [runFor_inactive _ _ ha]

/-- Settles O54: `settle` makes more block steps than remain, and a busy block without a step to make waits for SINK. -/
theorem everyOperationEndsOrWaits : Obligations.EveryOperationEndsOrWaits := by
  intro s h hw
  have hstop : s.settle.active = false := by
    rw [State.settle, hw]
    exact h.inactive_runFor h.remaining_le_work
  refine ⟨hstop, fun hb => ?_⟩
  have hwait : s.settle.stage = .await ∧ s.settle.sink = [] := by simpa [State.active, State.waiting, hb] using hstop
  exact hwait.2

end Sys2Proof.Machine
end

section
/-! Proofs of the family 41_framer.md: `build` and SINK's answer (R161, R165), the single-packet operations (R166 to R171),
the packet rows (log entry 14), and what the operations of FRM leave unchanged. -/

namespace Sys2Proof.Machine

variable {s t : State}

/-! ### `build` and SINK's answer (41_framer.md R161, R165) -/

theorem build_eq_none_iff {c : Config} {m : Command} :
    build c m = none ↔ c.maxPacketSize < 10 + m.payload.length := by
  refine ⟨fun h => ?_, build_eq_none c m⟩
  by_contra hfits
  rw [build_eq_some c m (Nat.le_of_not_lt hfits)] at h
  cases h

theorem build_eq_some_iff {c : Config} {m : Command} {bytes : List Byte} :
    build c m = some bytes ↔
      10 + m.payload.length ≤ c.maxPacketSize ∧ encodeHeader c.hdrBigEndian m.cmd m.fields ++ m.payload = bytes := by
  by_cases hfits : 10 + m.payload.length ≤ c.maxPacketSize
  · rw [build_eq_some c m hfits, Option.some.injEq, and_iff_right hfits]
  · simp [build_eq_none c m (Nat.lt_of_not_le hfits), hfits]

/-- Settles O9: the check is the comparison, on natural numbers, and the packet is ten bytes longer than its payload. -/
theorem buildRejectsExactlyTooLarge : Obligations.BuildRejectsExactlyTooLarge := by
  intro c m
  have hheader : 10 ≤ c.maxPacketSize := c.header_le
  refine ⟨build_eq_none_iff, ?_, fun bytes h => ⟨(build_eq_some_iff.mp h).2.symm, (build_length c h).2⟩, fun hlen => ?_⟩
  · rw [build_eq_none_iff]
    omega
  · refine ⟨_, build_eq_some_iff.mpr ⟨by omega, rfl⟩, ?_⟩
    rw [List.length_append, encodeHeader_length]
    omega

/-- With an answer at hand, stage await takes it; what comes after depends on K and the number of packets, not on the
answer. -/
theorem State.advance_await {a : Answer} {rest : List Answer} (hs : s.stage = .await) (hsink : s.sink = a :: rest) :
    s.advance =
      if s.k + 1 < s.packets then (s.takeAnswer a rest).startPace else (s.takeAnswer a rest).endFramer := by
  simp only [State.advance, hs, State.awaitStep, hsink]
  rw [State.afterAnswer, State.takeAnswer_k, State.takeAnswer_packets]

/-- Settles O15: after either answer the pause begins, or the operation ends. -/
theorem failedSendOnlySetsErrSend : Obligations.FailedSendOnlySetsErrSend := by
  intro s rest hs
  have hgo (a : Answer) : ({ s with sink := a :: rest } : State).advance =
      if s.k + 1 < s.packets then (s.takeAnswer a rest).startPace else (s.takeAnswer a rest).endFramer :=
    State.advance_await hs rfl
  simp only [hgo]
  split <;> exact ⟨rfl, rfl, rfl, rfl, rfl, rfl, rfl⟩

/-! ### The single-packet operations (41_framer.md R166 to R171) -/

/-- From a ready block, an operation with one packet that fits hands it over, notes SINK's answer and completes. -/
theorem Ready.sentAll_single {a : Answer} {rest : List Answer} {j : Job} {m : Command} (hr : Ready s)
    (hsink : s.sink = a :: rest) (hone : j.packets s.cfg = 1) (hm : s.command 0 j = some m)
    (hfits : 10 + m.payload.length ≤ s.cfg.maxPacketSize) :
    SentAll s (s.startFramer j).settle
      [⟨encodeHeader s.cfg.hdrBigEndian m.cmd m.fields ++ m.payload, some a⟩] [a] rest := by
  refine s.sentAll_operation (fun _ => _) j [a] rest hr (by rintro rfl; cases hone) (fun i hi => ⟨m, ?_, ?_⟩) hone.symm
    hone.ge hsink
  · rwa [show i = 0 by omega]
  · exact build_eq_some s.cfg m hfits

/-- Settles O10: a Clear always fits. -/
theorem clearSendsOnePacket : Obligations.ClearSendsOnePacket := by
  intro s a rest hr hsink
  have hsent := hr.sentAll_single (j := .clear) hsink rfl rfl s.cfg.header_le
  rw [List.append_nil] at hsent
  exact ⟨_, s.issue_ready hr.busy hr.halt _, hsent⟩

/-- Settles O11: the packet is a header and the one byte that BRIGHT holds at issue. -/
theorem brightSendsOnePacket : Obligations.BrightSendsOnePacket := by
  intro s a rest hr hsink hfits
  have hsent := hr.sentAll_single (j := s.sampleBright) hsink rfl rfl hfits
  exact ⟨_, s.issue_ready hr.busy hr.halt _, hsent⟩

/-- Settles O12: a SetBrightness is eleven bytes long. -/
theorem brightHaltsWhenLimitIsTen : Obligations.BrightHaltsWhenLimitIsTen := by
  intro s hr hlimit
  have hraised := s.tooLarge_operation s.sampleBright _ hr.window rfl (Nat.le_refl 1)
    (build_eq_none_iff.mpr (hlimit.trans_lt (Nat.lt_succ_self 10)))
  exact ⟨_, s.issue_ready hr.busy hr.halt _, hraised⟩

/-- DRAW issued in a ready block checks the size, then the slice (41_framer.md R171). -/
theorem execDraw_ready (hb : s.busy = false) (hh : s.halt = false) :
    exec .draw s = if 10 + s.plen.toNat ≤ s.cfg.maxPacketSize then
        if s.paddr.toNat + s.plen.toNat ≤ s.cfg.pixels then .next (s.startFramer s.sampleDraw).settle
        else .refused .sliceOutsideFb
      else .next (s.raise .packetTooLarge) := by
  refine (s.issue_ready hb hh _).trans ?_
  simp only [Config.fits, State.insideFb, Bool.not_eq_true', decide_eq_false_iff_not, ite_not]
  rfl

/-- Settles O13: both checks pass, and the payload is as long as PLEN says. -/
theorem drawSendsItsSlice : Obligations.DrawSendsItsSlice := by
  intro s a rest hr hsink hfits hslice
  have hsent := hr.sentAll_single (j := s.sampleDraw) hsink rfl rfl (by rwa [State.memRead_length])
  exact ⟨_, by rw [execDraw_ready hr.busy hr.halt, if_pos hfits, if_pos hslice], hsent⟩

/-- Settles O14: the slice is looked at only where the size check passed. -/
theorem drawChecksSizeThenSlice : Obligations.DrawChecksSizeThenSlice := by
  intro s hb hh
  rw [execDraw_ready hb hh]
  refine ⟨fun hlarge => ?_, fun hfits hslice => ?_⟩
  · exact ⟨_, if_neg hlarge.not_ge, s.tooLarge_raise⟩
  · rw [if_pos hfits, if_neg hslice.not_ge]

/-! ### The packet rows (log entry 14) -/

/-- A packet row is handed over where it fits, and raises PacketTooLargeError where it does not, in any state. -/
theorem exec_wire_cases {i : Instr} (s : State) (space : i.space = .wire) :
    (i.wf s.cfg = true ∧ ∃ alone : Job, alone ≠ .dither ∧ alone.packets s.cfg = 1 ∧
      exec i s = .next ((s.engage alone).loadTx (encode s.cfg i)).handOver.settle) ∨
    (i.wf s.cfg = false ∧ exec i s = .next (s.raise .packetTooLarge)) := by
  obtain ⟨t, ht⟩ : ∃ t, exec i s = .next t := by
    cases i with
    | pktDraw | pktClear | pktSetBrightness => exact ⟨_, rfl⟩
    | _ => cases space
  cases executed_of_exec ht with
  | packet alone _ hwf kind one => exact .inl ⟨hwf, alone, kind, one, ht⟩
  | packetTooLarge _ hwf => exact .inr ⟨hwf, ht⟩
  | ignored hop | tooLarge _ _ hop | framer _ _ _ hop => simp [space] at hop
  | wrongLength _ _ hop | dither _ _ hop => simp [hop, Instr.space] at space

/-- A packet handed over by a ready block: SINK's answer is noted and the operation completes. -/
theorem Ready.sentAll_packet {a : Answer} {rest : List Answer} {alone : Job} (hr : Ready s) (hsink : s.sink = a :: rest)
    (kind : alone ≠ .dither) (one : alone.packets s.cfg = 1) (bytes : List Byte) :
    SentAll s ((s.engage alone).loadTx bytes).handOver.settle [⟨bytes, some a⟩] [a] rest := by
  generalize hu : ((s.engage alone).loadTx bytes).handOver = u
  have hjob : u.job = some alone := by simp [← hu, State.engage, hr.job]
  have hcfg : u.cfg = s.cfg := by simp [← hu]
  have hpackets : u.packets = 1 := by simp only [State.packets, hjob, hcfg, one]
  have hsettle : u.settle = runFor 4 u := by
    have hwork : u.work = 4 := by rw [State.work_framer (by simpa [hjob] using kind), hpackets]
    have hwindow : u.window = none := by simp [← hu, hr.window]
    rw [State.settle, hwindow, hwork]
  have hanswer : u.sink = a :: rest := by simp [← hu, hsink]
  have hend : u.advance = (u.takeAnswer a rest).endFramer := by
    rw [State.advance_await (by simp [← hu]) hanswer, hpackets, if_neg (by omega)]
  have hactive : u.active = true := u.active_of_answer (by rw [← hu]; rfl) (by simp [hanswer])
  rw [hsettle, runFor_active _ _ hactive, hend, runFor_inactive _ _ (State.inactive_of_idle _ rfl), ← hu]
  exact
    { frame := (((s.frame_engage alone).trans (State.frame_loadTx _ bytes)).trans (State.frame_handOver _)).trans
        ((State.frame_takeAnswer _ a rest).trans (State.frame_endFramer _))
      out := by simp [answerLast_append]
      errSend := by cases a <;> simp
      errPkt := by simp
      halt := by simp
      idle := ⟨rfl, by simp [hr.phase], rfl, rfl, by simp [hr.timer]⟩
      sink := by simp }

/-- Settles O23: the row fits, so it is handed over. -/
theorem packetRowsSendThemselves : Obligations.PacketRowsSendThemselves := by
  intro s a rest i hr hsink space hwf
  obtain ⟨-, alone, kind, one, hx⟩ | ⟨hlarge, -⟩ := exec_wire_cases s space
  · exact ⟨_, hx, hr.sentAll_packet hsink kind one _⟩
  · simp [hwf] at hlarge

/-- Settles O24: the row does not fit, so it raises the error. -/
theorem packetRowsAreRejectedNotTruncated : Obligations.PacketRowsAreRejectedNotTruncated := by
  intro s i space hlarge
  obtain ⟨hwf, -⟩ | ⟨-, hx⟩ := exec_wire_cases s space
  · simp [hlarge] at hwf
  · exact ⟨_, hx, s.tooLarge_raise⟩

/-! ### What FRM leaves unchanged (41_framer.md R166 to R168, 42_streamer.md R194, R202, R204) -/

/-- FRM at work keeps its frame wherever HOST's next access lands. -/
theorem State.frame_settle (hs : s.stage ≠ .idle) : FramerFrame s s.settle := by
  obtain ⟨n, hn⟩ := s.settle_eq_run
  rw [hn]
  exact runFor_frame s n fun _ => hs

/-- Every instruction but DITHER keeps FRM's frame: an operation number where the block is not busy, a packet row in any
state. -/
theorem Executed.framerFrame {i : Instr} (h : Executed i s t) (hi : i ≠ .dither)
    (hb : i.space = .opReg → s.busy = false) : FramerFrame s t := by
  cases h with
  | ignored space => rw [s.settle_idle (hb space)]; exact .refl s
  | wrongLength _ _ op => exact absurd op hi
  | dither _ _ op => exact absurd op hi
  | tooLarge => exact s.frame_raise_packetTooLarge
  | framer j => exact (s.frame_startFramer j).trans (State.frame_settle (by simp))
  | packetTooLarge => exact s.frame_raise_packetTooLarge
  | packet alone =>
    have hbuilt := (s.frame_engage alone).trans (State.frame_loadTx _ (encode s.cfg i))
    exact (hbuilt.trans (State.frame_handOver _)).trans (State.frame_settle (by simp))

/-- Settles O39: the frame of each instruction, its sticky flags, and a halted block that ignores a write to OP. -/
theorem framerOperationsKeepTheirFrame : Obligations.FramerOperationsKeepTheirFrame := by
  refine ⟨fun s t i hmem hb h => ?_, fun s t i space h => ?_⟩
  · have hi : i ≠ .dither ∧ i.space = .opReg := by
      clear h
      revert i
      decide
    have hx := executed_of_exec h
    have hp := hx.persists
    refine ⟨hx.framerFrame hi.1 fun _ => hb, hp.errSend, hp.errPkt, fun hh => ?_⟩
    rw [operationsIgnoredWhileHalted s i hh hb hi.2] at h
    cases h
    exact hh
  · refine (executed_of_exec h).framerFrame ?_ fun hop => by simp [space] at hop
    rintro rfl
    cases space

end Sys2Proof.Machine
end

section
/-! Proofs of the family 41_framer.md: every datagram of the block is a packet of its closed command set (R174), whatever
its counters hold. -/

namespace Sys2Proof.Machine

variable {s t : State}

/-! ### The packets (41_framer.md R174; 30_encoding.md R107, R109) -/

/-- A packet of the block is the encoding of a packet row that fits. -/
theorem isPacket_iff {c : Config} {bytes : List Byte} :
    IsPacket c bytes ↔ ∃ i : Instr, i.space = .wire ∧ i.wf c = true ∧ encode c i = bytes :=
  exists_congr fun _ => decode_wire_eq_ok_iff

/-- The closed command set: a Draw, a Clear or a SetBrightness. -/
theorem IsPacket.cases {c : Config} {bytes : List Byte} (h : IsPacket c bytes) :
    (10 ≤ bytes.length ∧ bytes.length ≤ c.maxPacketSize ∧ ∃ f payload, bytes = drawPacket c f payload) ∨
    (bytes.length = 10 ∧ bytes = clearPacket c) ∨
    (bytes.length = 11 ∧ ∃ level, bytes = brightPacket c level) := by
  obtain ⟨i, space, hwf, rfl⟩ := isPacket_iff.mp h
  obtain ⟨hten, hmax⟩ := encode_length space hwf
  cases i with
  | pktDraw x y w h payload => exact .inl ⟨hten, hmax, _, payload, rfl⟩
  | pktClear => exact .inr (.inl ⟨encodeHeader_length .., rfl⟩)
  | pktSetBrightness level => exact .inr (.inr ⟨by simp [encode], level, rfl⟩)
  | _ => cases space

/-- Every packet of an operation that `build` answers is the packet of a row (30_encoding.md R116). -/
theorem State.isPacket_of_command {k : Nat} {j : Job} {m : Command} {bytes : List Byte} (hm : s.command k j = some m)
    (hb : build s.cfg m = some bytes) : IsPacket s.cfg bytes := by
  obtain ⟨hfits, rfl⟩ := build_eq_some_iff.mp hb
  have row (i : Instr) (space : i.space = .wire) (hp : i.payload = m.payload)
      (he : encode s.cfg i = encodeHeader s.cfg.hdrBigEndian m.cmd m.fields ++ m.payload) :
      IsPacket s.cfg (encodeHeader s.cfg.hdrBigEndian m.cmd m.fields ++ m.payload) :=
    isPacket_iff.mpr ⟨i, space, (Laws.Encoded.wf_iff s.cfg i).mpr (hp ▸ hfits), he⟩
  cases j with
  | dither => cases hm
  | clear => cases hm; exact row .pktClear rfl rfl (List.append_nil _).symm
  | bright level => cases hm; exact row (.pktSetBrightness level) rfl rfl rfl
  | draw | stream | streambuf => cases hm; exact row (.pktDraw _ _ _ _ _) rfl rfl rfl

/-! ### Every step hands over packets only -/

/-- What a state without a packet about to be handed over needs. -/
theorem State.PacketInv.of_stage (h : s.PacketInv) (hc : t.cfg = s.cfg) (ho : t.out = s.out) (hs : t.stage ≠ .handOver) :
    t.PacketInv := ⟨by rw [hc, ho]; exact h.out, fun hs' => absurd hs' hs⟩

/-- The property speaks of the configuration, OUT and FRM's buffer alone. -/
theorem State.PacketInv.of_eq (h : s.PacketInv) (hc : t.cfg = s.cfg) (ho : t.out = s.out) (hs : t.stage = s.stage)
    (hb : t.txbuf = s.txbuf) (hl : t.txlen = s.txlen) : t.PacketInv :=
  ⟨by rw [hc, ho]; exact h.out, by rw [hc, hs, hb, hl]; exact h.tx⟩

theorem State.PacketInv.loadTx (h : s.PacketInv) {bytes : List Byte} (hb : IsPacket s.cfg bytes) :
    (s.loadTx bytes).PacketInv := ⟨h.out, fun _ => by simpa using hb⟩

theorem State.PacketInv.handOver (h : s.PacketInv) (hs : s.stage = .handOver) : s.handOver.PacketInv := by
  refine ⟨fun e he => ?_, nofun⟩
  obtain he | he := List.mem_append.mp he
  · exact h.out e he
  · rw [List.mem_singleton.mp he]
    exact h.tx hs

theorem State.PacketInv.raise_packetTooLarge (h : s.PacketInv) : (s.raise .packetTooLarge).PacketInv :=
  h.of_stage rfl rfl (by simp)

theorem State.PacketInv.buildStep (h : s.PacketInv) : s.buildStep.PacketInv := by
  unfold State.buildStep
  split
  · exact h
  next m hm =>
    obtain ⟨j, -, hm⟩ := Option.bind_eq_some_iff.mp hm
    split
    · exact h.raise_packetTooLarge
    next hb => exact h.loadTx (State.isPacket_of_command hm hb)

theorem State.PacketInv.awaitStep (h : s.PacketInv) (hs : s.stage = .await) : s.awaitStep.PacketInv := by
  unfold State.awaitStep
  split
  · exact h
  next a rest _ =>
    have hanswered : (s.takeAnswer a rest).PacketInv := by
      refine ⟨fun e he => ?_, by simp [hs]⟩
      obtain ⟨e', he', hbytes⟩ := mem_answerLast (State.takeAnswer_out .. ▸ he)
      rw [State.takeAnswer_cfg, ← hbytes]
      exact h.out e' he'
    unfold State.afterAnswer
    split <;> exact hanswered.of_stage rfl rfl nofun

theorem State.PacketInv.advance (h : s.PacketInv) : s.advance.PacketInv := by
  cases hs : s.stage with
  | idle =>
    have hf := s.frame_advance_dither hs
    exact h.of_stage hf.outside.1 hf.out (by simp [hf.frm.1, hs])
  | build => simpa only [State.advance, hs] using h.buildStep
  | handOver => simpa only [State.advance, hs] using h.handOver hs
  | await => simpa only [State.advance, hs] using h.awaitStep hs
  | pace => simpa only [State.advance, hs] using h.of_stage (t := s.paceStep) rfl rfl nofun

theorem State.PacketInv.settle (h : s.PacketInv) : s.settle.PacketInv :=
  State.settle_induct State.PacketInv (fun _ ht _ => ht.advance) h

theorem Executed.packetInv {i : Instr} (h : Executed i s t) (hs : s.PacketInv) : t.PacketInv := by
  cases h with
  | ignored => exact hs.settle
  | wrongLength => exact hs.of_eq rfl rfl rfl rfl rfl
  | dither => exact (hs.of_eq (t := s.startDither) rfl rfl rfl rfl rfl).settle
  | tooLarge => exact hs.raise_packetTooLarge
  | framer j => exact (hs.of_stage (t := s.startFramer j) rfl rfl nofun).settle
  | packetTooLarge => exact hs.raise_packetTooLarge
  | packet alone space hwf =>
    have hengaged : (s.engage alone).PacketInv := hs.of_eq rfl rfl rfl rfl rfl
    have hrow : IsPacket s.cfg (encode s.cfg i) := isPacket_iff.mpr ⟨i, space, hwf, rfl⟩
    exact ((hengaged.loadTx hrow).handOver rfl).settle

theorem HostMoved.packetInv {m : HostMove} (h : HostMoved s m t) (hs : s.PacketInv) : t.PacketInv := by
  cases h with
  | op value duty run => exact run.packetInv hs
  | write index value => exact (hs.of_eq (t := s.writeReg (index + 1) value) (by simp) (by simp) (by simp) (by simp)
      (by simp)).settle
  | read index => exact (hs.of_eq (t := s.hostRead index) rfl rfl rfl rfl rfl).settle
  | fbWrite => exact hs.of_eq rfl rfl rfl rfl rfl
  | fbRead => exact hs.of_eq rfl rfl rfl rfl rfl
  | reset => exact hs.of_stage rfl rfl nofun

/-- Settles O50: only `build` and a packet row put a packet into TXBUF, and each puts one of the closed command set. -/
theorem everyDatagramIsAPacketOfTheBlock : Obligations.EveryDatagramIsAPacketOfTheBlock := by
  refine ⟨fun s t hs h => ?_, fun c bytes => IsPacket.cases⟩
  have hqueue (rest : List HostEvent) (w : Option Nat) : (s.schedule rest w).PacketInv :=
    hs.of_eq rfl rfl rfl rfl rfl
  obtain ⟨m, w, rest, -, hm⟩ | ⟨-, i, -, hi⟩ | ⟨-, -, rfl⟩ := step_cases h
  · exact hm.packetInv (hqueue rest w)
  · exact hi.packetInv (hqueue [] none)
  · exact (hqueue [] none).settle

end Sys2Proof.Machine
end

section
/-! Proofs of the family 42_streamer.md: the bands of STREAM (R191 to R197), the parts of STREAMBUF (R199 to R202) and the
pacing delay (R203). -/

namespace Sys2Proof.Machine

variable {c : Config} {s : State} {k : Nat}

/-! ### The rows of a band (42_streamer.md R191, R192) -/

/-- The rows before the end of a band: BAND_ROWS for each band so far, up to the height. -/
theorem band_start_add_height (hk : k < c.bands) :
    k * c.bandRows + Config.bandHeight c k = min ((k + 1) * c.bandRows) c.height := by
  have hstart := (c.lt_bands_iff k).mp hk
  rw [Config.bandHeight, Nat.add_one_mul]
  omega

theorem bandHeight_of_not_last (hk : k + 1 < c.bands) : Config.bandHeight c k = c.bandRows := by
  have hnext := (c.lt_bands_iff (k + 1)).mp hk
  rw [Nat.add_one_mul] at hnext
  exact Nat.min_eq_left (by omega)

/-- The bands end where the bitmap ends. -/
theorem height_le_bands_mul (c : Config) : c.height ≤ c.bands * c.bandRows :=
  Nat.le_of_not_lt fun h => Nat.lt_irrefl _ ((c.lt_bands_iff c.bands).mpr h)

theorem bandHeight_of_last (hk : k + 1 = c.bands) : Config.bandHeight c k = c.height - k * c.bandRows := by
  have hend := height_le_bands_mul c
  rw [← hk, Nat.add_one_mul] at hend
  exact Nat.min_eq_right (by omega)

/-- No band is higher than band 0. -/
theorem bandHeight_le (c : Config) (k : Nat) : Config.bandHeight c k ≤ min c.bandRows c.height :=
  min_le_min_left _ (Nat.sub_le _ _)

theorem bandHeight_zero (c : Config) : Config.bandHeight c 0 = min c.bandRows c.height := by simp [Config.bandHeight]

/-- Settles O19: a band is cut short only by the end of the bitmap, which lies in the last band. -/
theorem bandsAreWholeRowsOfTheBitmap : Obligations.BandsAreWholeRowsOfTheBitmap := by
  intro c k hk
  have hstart := (c.lt_bands_iff k).mp hk
  have hrows := c.bandRows_pos
  have hinside : k * c.bandRows + Config.bandHeight c k ≤ c.height :=
    (band_start_add_height hk).trans_le (Nat.min_le_right _ _)
  refine ⟨bandHeight_of_not_last, fun hlast => ?_, ?_, Nat.min_le_left _ _, ?_, c.bmpBytes_le⟩
  · rw [bandHeight_of_last hlast, ← hlast, Nat.add_sub_cancel]
  · exact Nat.le_min.mpr ⟨hrows, by omega⟩
  · rw [← Nat.add_mul, Config.bmpBytes, Nat.mul_comm c.rowBytes]
    exact Nat.mul_le_mul_right _ hinside

/-! ### The payloads of the bands (42_streamer.md R192, R196, R197) -/

@[simp] theorem bandPayload_length (s : State) (k : Nat) :
    (bandPayload s k).length = Config.bandHeight s.cfg k * s.cfg.rowBytes := s.memRead_length _ _

/-- Where band 0 fits, every band fits. -/
theorem bandPayload_fits (hfits : 10 + min s.cfg.bandRows s.cfg.height * s.cfg.rowBytes ≤ s.cfg.maxPacketSize) (k : Nat) :
    10 + (bandPayload s k).length ≤ s.cfg.maxPacketSize := by
  rw [bandPayload_length]
  exact (Nat.add_le_add_left (Nat.mul_le_mul_right _ (bandHeight_le s.cfg k)) 10).trans hfits

/-- The payloads of the first bands are the bitmap's rows up to where these bands end. -/
theorem flatten_bandPayload {n : Nat} (hn : n ≤ s.cfg.bands) :
    ((List.range n).map (bandPayload s)).flatten = s.memRead 0 (min (n * s.cfg.bandRows) s.cfg.height * s.cfg.rowBytes) := by
  induction n with
  | zero => simp [State.memRead]
  | succ n ih =>
    have hstart : min (n * s.cfg.bandRows) s.cfg.height = n * s.cfg.bandRows :=
      Nat.min_eq_left ((s.cfg.lt_bands_iff n).mp hn).le
    have happend := s.memRead_append 0 (n * s.cfg.bandRows * s.cfg.rowBytes) (Config.bandHeight s.cfg n * s.cfg.rowBytes)
    rw [Nat.zero_add, ← Nat.add_mul, band_start_add_height hn] at happend
    rw [List.range_succ, List.map_append, List.flatten_append, ih (Nat.le_of_succ_le hn), hstart, ← happend]
    simp [bandPayload]

/-- Settles O18: the last band ends with the bitmap. -/
theorem streamPayloadsCoverBitmap : Obligations.StreamPayloadsCoverBitmap := by
  intro s
  rw [flatten_bandPayload le_rfl, Nat.min_eq_right (height_le_bands_mul s.cfg), Config.bmpBytes, Nat.mul_comm]

/-! ### STREAM (42_streamer.md R194 to R196) -/

/-- Settles O16: every band fits because band 0 does. -/
theorem streamSendsEveryBand : Obligations.StreamSendsEveryBand := by
  intro s answers rest hr hlen hsink hfits
  have hsent := s.sentAll_operation (bandPacket s) .stream answers rest hr nofun
    (fun k _ => ⟨_, rfl, build_eq_some s.cfg _ (bandPayload_fits hfits k)⟩) hlen s.cfg.bands_pos hsink
  exact ⟨_, s.issue_ready hr.busy hr.halt _, hsent⟩

/-- Every packet the operation in progress can build fits. -/
def State.PacketsFit (s : State) : Prop :=
  ∀ k m, s.job.bind (s.command k) = some m → 10 + m.payload.length ≤ s.cfg.maxPacketSize

/-- The length of a packet's payload depends on the configuration and on the operation alone. -/
theorem State.command_payload_length_congr {t : State} (hc : t.cfg = s.cfg) (k : Nat) (j : Job) :
    (t.command k j).map (·.payload.length) = (s.command k j).map (·.payload.length) := by
  cases j <;> simp [State.command, hc]

theorem State.PacketsFit.of_job {t : State} (h : s.PacketsFit) (hc : t.cfg = s.cfg)
    (hj : t.job = s.job ∨ t.job = none) : t.PacketsFit := by
  intro k m hm
  obtain hj | hj := hj
  · obtain ⟨j, hsj, hcm⟩ := Option.bind_eq_some_iff.mp (hj ▸ hm)
    have hlen := State.command_payload_length_congr hc k j
    rw [hcm, Option.map_some] at hlen
    obtain ⟨m', hm', heq⟩ := Option.map_eq_some_iff.mp hlen.symm
    rw [hc, ← heq]
    exact h k m' (Option.bind_eq_some_iff.mpr ⟨j, hsj, hm'⟩)
  · simp [hj] at hm

/-- The operation in progress goes on or has ended, and PacketTooLargeError was not raised. -/
structure NotTooLarge (s t : State) : Prop where
  job    : t.job = s.job ∨ t.job = none
  errPkt : t.errPkt = s.errPkt
  halt   : t.halt = s.halt

theorem NotTooLarge.refl (s : State) : NotTooLarge s s := ⟨.inl rfl, rfl, rfl⟩

theorem State.PacketsFit.buildStep (h : s.PacketsFit) : NotTooLarge s s.buildStep := by
  unfold State.buildStep
  split
  · exact .refl s
  next m hm =>
    rw [build_eq_some s.cfg m (h s.k m hm)]
    exact ⟨.inl rfl, rfl, rfl⟩

theorem State.notTooLarge_awaitStep (s : State) : NotTooLarge s s.awaitStep := by
  unfold State.awaitStep
  split
  · exact .refl s
  · unfold State.afterAnswer
    split
    · exact ⟨.inl (by simp), by simp, by simp⟩
    · exact ⟨.inr rfl, by simp, by simp⟩

theorem State.notTooLarge_scanStep (s : State) : NotTooLarge s s.scanStep := by
  refine ⟨?_, s.frame_scanStep.errPkt, s.frame_scanStep.halt⟩
  have hj := s.pixelStep_job s.row s.col
  obtain ⟨-, heq⟩ | ⟨-, -, heq⟩ | ⟨-, -, heq⟩ := s.scanStep_cases <;> rw [heq]
  · exact .inl hj
  · exact .inl hj
  · exact .inr rfl

/-- Where every packet fits, no block step raises PacketTooLargeError: only stage build could. -/
theorem State.PacketsFit.advance (h : s.PacketsFit) : NotTooLarge s s.advance := by
  unfold State.advance
  split
  · exact h.buildStep
  · exact ⟨.inl rfl, rfl, rfl⟩
  · exact s.notTooLarge_awaitStep
  · exact ⟨.inl rfl, rfl, rfl⟩
  · split
    · exact ⟨.inl rfl, rfl, rfl⟩
    · exact s.notTooLarge_scanStep
    · exact .refl s

/-- Where every packet fits, PacketTooLargeError is not raised wherever HOST's next access lands. -/
theorem State.PacketsFit.settle (h : s.PacketsFit) : s.settle.errPkt = s.errPkt ∧ s.settle.halt = s.halt := by
  have hrun : s.settle.PacketsFit ∧ s.settle.errPkt = s.errPkt ∧ s.settle.halt = s.halt :=
    State.settle_induct (fun t => t.PacketsFit ∧ t.errPkt = s.errPkt ∧ t.halt = s.halt)
      (fun t ⟨hfit, hpkt, hhalt⟩ _ =>
        have hstep := hfit.advance
        ⟨hfit.of_job State.advance_cfg hstep.job, hstep.errPkt.trans hpkt, hstep.halt.trans hhalt⟩) ⟨h, rfl, rfl⟩
  exact hrun.2

/-- Settles O17: `build` refuses band 0, or no band. -/
theorem streamTooLargeBeforeAnyDatagram : Obligations.StreamTooLargeBeforeAnyDatagram := by
  intro s hr
  have hexec : exec .stream s = .next (s.startFramer .stream).settle := s.issue_ready hr.busy hr.halt _
  refine ⟨fun hlarge => ?_, fun hfits => ⟨fun k _ => bandPayload_fits hfits k, fun t ht => ?_⟩⟩
  · have hband : build s.cfg ⟨s.cfg.cmdDraw, Config.bandFieldsAt s.cfg 0, bandPayload s 0⟩ = none :=
      build_eq_none _ _ (by rwa [bandPayload_length, bandHeight_zero])
    exact ⟨_, hexec, s.tooLarge_operation .stream _ hr.window rfl s.cfg.bands_pos hband⟩
  · have hfit : (s.startFramer .stream).PacketsFit := by
      rintro k _ ⟨⟩
      exact bandPayload_fits hfits k
    cases hexec.symm.trans ht
    exact ⟨hfit.settle.1, hfit.settle.2.trans hr.halt⟩

/-! ### BAND_FIELDS (42_streamer.md R193) -/

theorem bandFieldsAt_eq_getElem (hk : k < c.bands) :
    Config.bandFieldsAt c k = c.bandFields[k]'(c.bandFields_length.symm ▸ hk) :=
  List.getD_eq_getElem ..

theorem bandFieldsAt_ysize (hk : k < c.bands) : (Config.bandFieldsAt c k).ysize.toNat = c.width := by
  rw [bandFieldsAt_eq_getElem hk, c.bandFields_ysize _ (List.getElem_mem _), BitVec.toNat_ofNat]
  exact Nat.mod_eq_of_lt (Nat.lt_succ_of_le c.width_le)

theorem bandFieldsAt_xpos_lt {k' : Nat} (hk : k < c.bands) (hlt : k' < k) :
    (Config.bandFieldsAt c k').xpos.toNat < (Config.bandFieldsAt c k).xpos.toNat := by
  rw [bandFieldsAt_eq_getElem hk, bandFieldsAt_eq_getElem (hlt.trans hk)]
  exact List.pairwise_iff_getElem.mp c.bandFields_xpos _ _ _ _ hlt

/-- The default of BAND_FIELDS: a band's first row, its number of rows, and the width. -/
theorem bandFieldsAt_default (hdefault : c.bandFields = defaultBandFields c.width c.height c.bandRows) (hk : k < c.bands) :
    (Config.bandFieldsAt c k).xpos.toNat = k * c.bandRows ∧ (Config.bandFieldsAt c k).ypos = 0 ∧
      (Config.bandFieldsAt c k).xsize.toNat = Config.bandHeight c k := by
  have hstart := (c.lt_bands_iff k).mp hk
  have hheight := c.height_le
  have hrows := (bandHeight_le c k).trans (Nat.min_le_right _ _)
  have hfields : Config.bandFieldsAt c k =
      ⟨BitVec.ofNat 16 (k * c.bandRows), 0, BitVec.ofNat 16 (Config.bandHeight c k), BitVec.ofNat 16 c.width⟩ := by
    simp only [bandFieldsAt_eq_getElem hk, hdefault, defaultBandFields, List.getElem_map, List.getElem_range,
      Config.bandHeight]
  rw [hfields]
  refine ⟨?_, rfl, ?_⟩
  · exact (BitVec.toNat_ofNat _ _).trans (Nat.mod_eq_of_lt (by omega))
  · exact (BitVec.toNat_ofNat _ _).trans (Nat.mod_eq_of_lt (by omega))

/-- Settles O20: under the default a band's rows end where the next band's begin. -/
theorem bandFieldsTileTheHeight : Obligations.BandFieldsTileTheHeight := by
  refine ⟨fun c k hk => ⟨bandFieldsAt_ysize hk, fun k' hlt => bandFieldsAt_xpos_lt hk hlt⟩, fun c hdefault k hk => ?_⟩
  obtain ⟨hxpos, hypos, hxsize⟩ := bandFieldsAt_default hdefault hk
  refine ⟨hxpos, hypos, ?_⟩
  rw [hxpos, hxsize, band_start_add_height hk]
  split
  next hnext =>
    rw [(bandFieldsAt_default hdefault hnext).1]
    exact Nat.min_eq_left ((c.lt_bands_iff _).mp hnext).le
  next hlast =>
    exact Nat.min_eq_right (Nat.le_of_not_lt (mt (c.lt_bands_iff _).mpr hlast))

/-! ### STREAMBUF (42_streamer.md R199 to R202) -/

/-- STREAMBUF issued in a ready block checks its operands, the size of a part, then the slice (42_streamer.md R202). -/
theorem execStreambuf_ready (hb : s.busy = false) (hh : s.halt = false) :
    exec .streambuf s =
      if s.parts.toNat = 0 ∨ s.plen.toNat % s.parts.toNat ≠ 0 then .refused .unequalParts
      else if 10 + s.plen.toNat / s.parts.toNat ≤ s.cfg.maxPacketSize then
        if s.paddr.toNat + s.plen.toNat ≤ s.cfg.pixels then .next (s.startFramer s.sampleStreambuf).settle
        else .refused .sliceOutsideFb
      else .next (s.raise .packetTooLarge) := by
  refine (s.issue_ready hb hh _).trans ?_
  simp only [Config.fits, State.insideFb, Bool.not_eq_true', decide_eq_false_iff_not, ite_not, ite_or]
  rfl

/-- Settles O22: each check is made where those before it passed. -/
theorem streambufChecksInOrder : Obligations.StreambufChecksInOrder := by
  intro s hb hh
  rw [execStreambuf_ready hb hh]
  refine ⟨fun hunequal => if_pos hunequal, fun hparts hequal => ?_⟩
  rw [if_neg (by omega)]
  refine ⟨fun hlarge => ?_, fun hfits hslice => ?_⟩
  · exact ⟨_, if_neg hlarge.not_ge, s.tooLarge_raise⟩
  · rw [if_pos hfits, if_neg hslice.not_ge]

/-- Settles O21: the checks pass, and every part is as long as every other. -/
theorem streambufSendsEqualParts : Obligations.StreambufSendsEqualParts := by
  intro s n answers rest hr hparts hplen hfits hslice hlen hsink
  have hequal : ¬ (s.parts.toNat = 0 ∨ s.plen.toNat % s.parts.toNat ≠ 0) := by
    rw [hplen, Nat.mul_mod_right]
    omega
  obtain rfl : s.plen.toNat / s.parts.toNat = n := by rw [hplen, Nat.mul_div_cancel_left _ hparts]
  have hsent := s.sentAll_operation (partPacket s _) s.sampleStreambuf answers rest hr nofun
    (fun i _ => ⟨_, rfl, build_eq_some s.cfg _ (by rwa [State.memRead_length])⟩) hlen hparts hsink
  exact ⟨_, by rw [execStreambuf_ready hr.busy hr.halt, if_neg hequal, if_pos hfits, if_pos hslice], hsent⟩

/-! ### The pacing delay (42_streamer.md R203) -/

/-- Settles O56: after an answer the pause begins where a packet is left, and the operation ends where none is. -/
theorem pacingBetweenPackets : Obligations.PacingBetweenPackets := by
  intro s a rest hs hsink
  rw [State.advance_await hs hsink]
  refine ⟨fun hmore => ?_, fun hlast => ?_⟩
  · have hpace (u : State) : u.startPace.advance = u.startPace.paceStep := rfl
    rw [if_pos hmore, hpace]
    simp
  · rw [if_neg hlast.not_gt]
    simp

end Sys2Proof.Machine
end

section
/-! Proofs of the family 60_exceptions.md: a halted block is left by the reset input only (R230, R231), and HOST has no step
for a breach of its duty (R237). -/

namespace Sys2Proof.Machine

variable {s t : State}

/-! ### A halted block (60_exceptions.md R230) -/

/-- An operation number written in a halted block changes nothing. -/
theorem Executed.eq_of_halted {i : Instr} (h : Executed i s t) (space : i.space = .opReg) (hb : s.busy = false)
    (hh : s.halt = true) : t = s := by
  cases h with
  | ignored => exact s.settle_idle hb
  | wrongLength _ halt | dither _ halt | tooLarge _ halt | framer _ _ halt => exact absurd (hh.symm.trans halt) nofun
  | packetTooLarge wire | packet _ wire => exact absurd (space.symm.trans wire) nofun

/-- No access of HOST but the reset input ends the halt, clears ERR.PKT or has the block send. -/
theorem HostMoved.keeps_halt {m : HostMove} (h : HostMoved s m t) (hb : s.busy = false) (hh : s.halt = true)
    (hr : m ≠ .reset) : t.halt = s.halt ∧ t.errPkt = s.errPkt ∧ t.out = s.out := by
  cases h with
  | op value duty run => rw [run.eq_of_halted (decodeOp_space value) hb hh]; exact ⟨rfl, rfl, rfl⟩
  | write index value => rw [State.settle_idle _ (by simpa using hb)]; simp
  | read index => rw [State.settle_idle (s.hostRead index) hb]; exact ⟨rfl, rfl, rfl⟩
  | fbWrite | fbRead => exact ⟨rfl, rfl, rfl⟩
  | reset => exact absurd rfl hr

/-- Settles O28: a halted block is not busy, so it has no packet pending and no operation to go on with. -/
theorem haltLeftOnlyByReset : Obligations.HaltLeftOnlyByReset := by
  intro s t hs hh h
  have hb := hs.haltIdle hh
  have hpkt : s.errPkt = true := hs.haltPkt.symm.trans hh
  obtain ⟨m, w, rest, hq, hm⟩ | ⟨-, i, hi, -⟩ | ⟨-, -, rfl⟩ := step_cases h
  · by_cases hr : m = .reset
    · exact .inr ⟨w, rest, hr ▸ hq⟩
    · obtain ⟨hhalt, herr, hout⟩ := hm.keeps_halt hb hh hr
      exact .inl ⟨hhalt.trans hh, herr.trans hpkt, hout⟩
  · exact absurd (hb.symm.trans (State.pendingPacket_eq_some hi).1) nofun
  · rw [State.settle_idle (s.schedule [] none) hb]
    exact .inl ⟨hh, hpkt, rfl⟩

/-! ### What no operation touches -/

theorem SameOutside.refl (s : State) : SameOutside s s := ⟨rfl, rfl, rfl, rfl, rfl⟩

theorem SameOutside.trans {u : State} (h : SameOutside s t) (h' : SameOutside t u) : SameOutside s u := by
  obtain ⟨hcfg, hhost, hwindow, hrdata, hduty⟩ := h
  obtain ⟨hcfg', hhost', hwindow', hrdata', hduty'⟩ := h'
  exact ⟨hcfg'.trans hcfg, hhost'.trans hhost, hwindow'.trans hwindow, hrdata'.trans hrdata, hduty'.trans hduty⟩

theorem SameOutside.dutiful (h : SameOutside s t) : t.dutiful = s.dutiful := by
  obtain ⟨-, -, -, -, hduty⟩ := h
  exact hduty

theorem SameOutside.advance (s : State) : SameOutside s s.advance := by
  by_cases h : s.stage = .idle
  · exact (s.frame_advance_dither h).outside
  · exact (s.frame_advance h).outside

theorem SameOutside.settle (h : SameOutside s t) : SameOutside s t.settle :=
  State.settle_induct (SameOutside s) (fun u hu _ => hu.trans (.advance u)) h

/-- An instruction touches neither the configuration nor HOST's inputs and read data. -/
theorem Executed.sameOutside {i : Instr} (h : Executed i s t) : SameOutside s t := by
  cases h with
  | ignored => exact .settle (.refl s)
  | wrongLength => exact s.frame_raise_invalidDimensions.outside
  | dither => exact .settle s.frame_startDither.outside
  | tooLarge | packetTooLarge => exact s.frame_raise_packetTooLarge.outside
  | framer job => exact .settle (s.frame_startFramer job).outside
  | packet alone =>
    have hbuilt := (s.frame_engage alone).trans (State.frame_loadTx _ (encode s.cfg i))
    exact .settle (hbuilt.trans (State.frame_handOver _)).outside

/-! ### HOST's duty (60_exceptions.md R237) -/

/-- No access of HOST changes whether it is held to its duty. -/
theorem HostMoved.dutiful {m : HostMove} (h : HostMoved s m t) : t.dutiful = s.dutiful := by
  cases h with
  | op value duty run => exact run.sameOutside.dutiful
  | write index value => exact (SameOutside.settle (.refl (s.writeReg (index + 1) value))).dutiful.trans (by simp)
  | read index => exact (SameOutside.settle (.refl (s.hostRead index))).dutiful
  | fbWrite | fbRead | reset => rfl

theorem step_dutiful (h : step s = .next t) : t.dutiful = s.dutiful := by
  obtain ⟨m, w, rest, -, hm⟩ | ⟨-, i, -, hi⟩ | ⟨-, -, rfl⟩ := step_cases h
  · exact hm.dutiful
  · exact hi.sameOutside.dutiful
  · exact (SameOutside.settle (.refl (s.schedule [] none))).dutiful

/-- A write to OP while HALT is a step that changes nothing but HOST's queue (log entry 9). -/
theorem step_op_halted {v : Nat} {w : Option Nat} {rest : List HostEvent} (hq : s.host = ⟨.write 0 v, w⟩ :: rest)
    (hb : s.busy = false) (hh : s.halt = true) : step s = .next (s.schedule rest w) := by
  rw [step_op hq (s.opBreach_of_halt hb hh v)]
  exact operationsIgnoredWhileHalted _ _ hh hb (decodeOp_space v)

/-- HOST's access to FB while BUSY is no step, whatever its duty (20_memory.md R85). -/
theorem step_fb_refused {a : Nat} {b : Byte} {w : Option Nat} {rest : List HostEvent} (hb : s.busy = true)
    (hq : s.host = ⟨.fbWrite a b, w⟩ :: rest ∨ s.host = ⟨.fbRead a, w⟩ :: rest) : step s = .refused .fbWhileBusy := by
  obtain ⟨hwrite, hread⟩ := hostFb_refused (s := s.schedule rest w) (a := a) hb b
  obtain hq | hq := hq <;> rw [step_host hq]
  · exact hwrite
  · exact hread

/-- Settles O58: the refusals are those of the two ports, and no step changes the duty HOST is held to. -/
theorem stepRefusesBreachesOfHostDuty : Obligations.StepRefusesBreachesOfHostDuty := by
  refine ⟨fun s v w rest hq => ?_, fun s a b w rest hb hq => step_fb_refused hb hq, rfl, fun s t h => step_dutiful h⟩
  obtain ⟨-, hbusy, hreserved, -, -⟩ := stepRunsOperation s v w rest hq
  exact ⟨hbusy, hreserved, step_op_halted hq⟩

end Sys2Proof.Machine
end

section
/-! Proofs of the family 70_reset_and_hazards.md: an operation of FRM whose datagram SINK never answers waits with BUSY 1
(R276). -/

namespace Sys2Proof.Machine

variable (s : State)

/-- FRM has no step to make while SINK is silent. -/
theorem State.inactive_of_silent (hs : s.stage = .await) (hsink : s.sink = []) : s.active = false := by
  simp [State.active, State.waiting, hs, hsink]

/-- A packet that fits is handed over and, with SINK silent, the run stops there: two block steps, however many more it may
make. -/
theorem State.packet_unanswered (j : Job) (m : Command) (bytes : List Byte) (hb : s.busy = true) (hs : s.stage = .build)
    (hj : s.job = some j) (hm : s.command s.k j = some m) (hp : build s.cfg m = some bytes) (hsink : s.sink = [])
    (n : Nat) : runFor (n + 2) s = (s.loadTx bytes).handOver := by
  have hbuild : s.advance = s.loadTx bytes := by simp [State.advance, hs, State.buildStep, hj, hm, hp]
  have hhand : (s.loadTx bytes).advance = (s.loadTx bytes).handOver := rfl
  rw [runFor_active _ _ (s.active_of_busy hb (by simp [hs])), hbuild,
    runFor_active _ _ (State.active_of_busy _ (by simpa using hb) (by simp)), hhand,
    runFor_inactive _ _ (State.inactive_of_silent _ (by simp) (by simpa using hsink))]

/-- Settles O55: a Clear always fits, so it is handed over, and from then on the block has no step to make. -/
theorem silentSinkKeepsBusy : Obligations.SilentSinkKeepsBusy := by
  intro s hr hsink
  have hbuilt : build s.cfg ⟨s.cfg.cmdClear, ⟨0, 0, 0, 0⟩, []⟩ = some (clearPacket s.cfg) :=
    build_eq_some_iff.mpr ⟨s.cfg.header_le, List.append_nil _⟩
  have hsettle : (s.startFramer .clear).settle = ((s.startFramer .clear).loadTx (clearPacket s.cfg)).handOver := by
    rw [s.settle_startFramer .clear nofun hr.window]
    exact (s.startFramer .clear).packet_unanswered .clear _ _ rfl rfl rfl rfl hbuilt hsink 2
  refine ⟨_, (s.issue_ready hr.busy hr.halt _).trans (congrArg _ hsettle), rfl, rfl, by simp, ?_, fun n => ?_⟩
  · exact ((s.frame_startFramer .clear).trans (State.frame_loadTx _ _)).trans (State.frame_handOver _)
  · exact runFor_inactive _ n (State.inactive_of_silent _ rfl hsink)

end Sys2Proof.Machine
end
